-- ==== Sys2Proof/Word.lean ====
section
/-! DEFINITION. The words, numbers and levels the manual uses: bytes, counts, and the fixed sets of masters, lines,
pairs, groups, entries and slots, each numbered from 0 (00_scope.md, Names). -/
namespace Sys2Proof

/-- One byte of a frame. -/
abbrev Byte := BitVec 8

/-- A count of the Timebase: 32 bits, wrapping (R1, R3). -/
abbrev Count := BitVec 32

/-- M0 to M3, and the ports of the same numbers. -/
abbrev Master := Fin 4

/-- E0 to E23. -/
abbrev EntryIx := Fin 24

/-- CL0 to CL15. -/
abbrev CapLine := Fin 16

/-- G0 to G3. -/
abbrev GroupIx := Fin 4

/-- OL0 to OL7. -/
abbrev OutLine := Fin 8

/-- Pairs 0 to 3; pair k is OL(2k), its line A, and OL(2k+1), its line B. -/
abbrev PairIx := Fin 4

/-- Slots 0 to 31 of the Action Table. -/
abbrev Slot := Fin 32

/-- A set of masters as the frames carry it: bit n stands for Mn (R171). -/
abbrev MasterSet := BitVec 4

/-- A set of entries: bit n stands for En (R171). -/
abbrev EntrySet := BitVec 24

/-- A set of output lines: bit n stands for OLn (R171). -/
abbrev LineSet := BitVec 8

/-- A set of capture lines, or a snapshot of their levels: bit n stands for CLn (R171). -/
abbrev CapSet := BitVec 16

/-- An electrical level of an input pin. -/
inductive Level where
  | low
  | high
deriving DecidableEq, Repr

end Sys2Proof
end

