-- ==== Sys2Proof/Config.lean ====
section
/-! DEFINITION. The numbers the manual fixes for the part. The manual leaves no value of the part open (orders it leaves
open come from State.arbiter), so there is no opaque constant here. -/
namespace Sys2Proof.Config

/-- Reference periods in one service period: 100 µs at 50 MHz (R6). -/
abbrev servicePeriod : Nat := 5000

/-- Notices a queue holds (R74). -/
abbrev queueCapacity : Nat := 16

/-- Where the loss count saturates (R78). -/
abbrev lossCeiling : Nat := 65535

/-- The farthest distance at which a time is ahead of the count (R3). -/
abbrev horizon : Nat := 2 ^ 31 - 1

/-- The greatest sum of the four quotas, which is the size of the Action Table (R88, R149). -/
abbrev quotaCeiling : Nat := 32

/-- The quota of each master after device reset (R145). -/
abbrev resetQuota : Nat := 8

/-- The longest payload of a request frame (R158). -/
abbrev maxPayload : Nat := 48

/-- The first byte of a response read (R157). -/
abbrev readByte : Byte := 0x80#8

/-- Part code and revision (R155). -/
abbrev partCode : BitVec 16 := 0x3140#16
abbrev revision : Byte := 1#8

end Sys2Proof.Config
end

