-- ==== Sys2Proof/Syntax.lean ====
section
/-! DEFINITION. The commands of the block: one constructor per row of spec/opcode_table.json. A master's command carries
the master's number and the raw fields of its payload (R173, R177 to R179), since a value out of range is an operand like
any other and is answered BAD_ARG (R171). An event of the field or of the part carries what tells one such event from
another. -/
namespace Sys2Proof

/-- The payload of RIGHTS_WRITE: a rights record (R179). -/
structure RightsFields where
  master   : Byte
  entries  : BitVec 24
  lines    : BitVec 8
  quota    : Byte
  timebase : Byte
deriving DecidableEq, Repr

/-- The payload of TB_CONFIG (R173). -/
structure TbFields where
  select      : Byte
  prescale    : BitVec 16
  framePeriod : BitVec 24
  syncMode    : Byte
  resyncValue : BitVec 32
deriving DecidableEq, Repr

/-- The payload of CAP_CONFIG (R173). -/
structure CapFields where
  line         : Byte
  mode         : Byte
  edgeSelect   : Byte
  activeLevel  : Byte
  filterLength : Byte
  interval     : BitVec 16
  prescale     : BitVec 16
  gateEnable   : Byte
deriving DecidableEq, Repr

/-- The payload of ENTRY_WRITE: the write form of the entry record (R177). -/
structure EntryFields where
  entry        : Byte
  control      : Byte
  destinations : Byte
  tag          : Byte
  deadline     : BitVec 16
deriving DecidableEq, Repr

/-- The payload of ACT_SUBMIT (R178). -/
structure SubmitFields where
  kind        : Byte
  target      : Byte
  reference   : Byte
  notify      : Byte
  tag         : Byte
  time        : BitVec 32
  widthA      : BitVec 24
  widthB      : BitVec 24
  period      : BitVec 32
  repeatCount : BitVec 16
deriving DecidableEq, Repr

/-- The payload of ACT_MODIFY (R173, R178). -/
structure ModifyFields where
  slot   : Byte
  widthA : BitVec 24
  widthB : BitVec 24
  period : BitVec 32
deriving DecidableEq, Repr

/-- The payload of LINE_CONFIG (R173). -/
structure LineFields where
  line      : Byte
  polarity  : Byte
  safe      : Byte
  cutEnable : Byte
deriving DecidableEq, Repr

/-- The payload of PAIR_CONFIG (R173). -/
structure PairFields where
  pair     : Byte
  mode     : Byte
  deadTime : BitVec 16
deriving DecidableEq, Repr

/-- The payload of CUT_CONFIG (R173). -/
structure CutFields where
  pinEnable    : Byte
  activeLevel  : Byte
  filterLength : Byte
  interval     : BitVec 16
deriving DecidableEq, Repr

inductive Instr where
  -- reset (R156)
  | deviceReset
  | resetRelease
  -- the port's own steps (R157 to R163)
  | requestFrame (m : Master) (bytes : List Byte)
  | responseRead (m : Master) (clocked : Nat)
  | responsePlacement (m : Master)
  -- attachment and standing (R164 to R169, R155)
  | attach (m : Master)
  | detach (m : Master)
  | suspend (m : Master)
  | resume (m : Master)
  | status (m : Master)
  | identify (m : Master)
  -- rights (R147 to R154)
  | supvClaim (m : Master)
  | rightsWrite (m : Master) (f : RightsFields)
  | rightsRead (m : Master) (master : Byte)
  | labelWrite (m : Master) (label : Vector Byte 16)
  -- timebase (R2 to R16)
  | tbConfig (m : Master) (f : TbFields)
  | tbRun (m : Master)
  | tbHold (m : Master)
  | tbResync (m : Master)
  | syncEdge (level : Level)
  | tbRead (m : Master)
  | tick
  | servicePeriod
  | deadlineExpiry (e : EntryIx)
  -- capture lines and groups (R17 to R33)
  | captureQualification (n : CapLine) (level : Level)
  | cutoffPinQualification (level : Level)
  | capConfig (m : Master) (f : CapFields)
  | capGate (m : Master) (line : Byte)
  | capRead (m : Master) (line : Byte)
  | groupConfig (m : Master) (group : Byte) (mask : BitVec 16)
  -- steering table (R51 to R61)
  | entryWrite (m : Master) (f : EntryFields)
  | entryMask (m : Master) (entry : Byte) (mask : Byte)
  | entryRead (m : Master) (entry : Byte)
  | done (m : Master) (tag : Byte)
  -- notice queues (R80 to R84)
  | fetch (m : Master)
  | attnEnable (m : Master) (enable : Byte)
  -- action schedule (R90 to R104)
  | actSubmit (m : Master) (f : SubmitFields)
  | actModify (m : Master) (f : ModifyFields)
  | actCancel (m : Master) (slot : Byte)
  | actRead (m : Master) (slot : Byte)
  | actList (m : Master)
  | actionFiring (n : Slot)
  | pulseEnd (n : Slot)
  -- output lines and pairs (R117 to R128)
  | deadTimeExpiry (p : PairIx)
  | lineClaim (m : Master) (line : Byte)
  | lineRelease (m : Master) (line : Byte)
  | lineConfig (m : Master) (f : LineFields)
  | lineEnable (m : Master) (line : Byte)
  | lineDisable (m : Master) (line : Byte)
  | lineRead (m : Master) (line : Byte)
  | pairConfig (m : Master) (f : PairFields)
  -- cutoff (R136 to R143)
  | cutForce (m : Master)
  | cutRestore (m : Master) (lines : BitVec 8)
  | cutConfig (m : Master) (f : CutFields)
  | cutRead (m : Master)
  -- sampling (R12, R18, R19, R134) and the first byte of a frame (R157)
  | captureSample (n : CapLine) (level : Level)
  | cutoffPinSample (level : Level)
  | syncSample (level : Level)
  | requestFirstByte (m : Master) (byte : Byte)
deriving DecidableEq, Repr

end Sys2Proof
end

