-- ==== Sys2Proof/WellFormed.lean ====
section
/-! DEFINITION. What makes a command term one that can occur. Every operand but the bytes of a chip-select period is held in
range by its type; a period's class follows from its bytes (R157). -/
namespace Sys2Proof

/-- R157: a period is a request frame when it has a first byte and that byte is not 0x80; REQUEST_FIRST_BYTE is the
completion of such a first byte. -/
def Instr.wellFormed : Instr → Bool
  | .requestFrame _ bytes =>
    match bytes with
    | [] => false
    | first :: _ => first != Config.readByte
  | .requestFirstByte _ byte => byte != Config.readByte
  | .deviceReset | .resetRelease | .responseRead _ _ | .responsePlacement _ | .attach _ | .detach _ | .suspend _
  | .resume _ | .status _ | .identify _ | .supvClaim _ | .rightsWrite _ _ | .rightsRead _ _ | .labelWrite _ _
  | .tbConfig _ _ | .tbRun _ | .tbHold _ | .tbResync _ | .syncEdge _ | .tbRead _ | .tick | .servicePeriod
  | .deadlineExpiry _ | .captureQualification _ _ | .cutoffPinQualification _ | .capConfig _ _ | .capGate _ _
  | .capRead _ _ | .groupConfig _ _ _ | .entryWrite _ _ | .entryMask _ _ _ | .entryRead _ _ | .done _ _ | .fetch _
  | .attnEnable _ _ | .actSubmit _ _ | .actModify _ _ | .actCancel _ _ | .actRead _ _ | .actList _ | .actionFiring _
  | .pulseEnd _ | .deadTimeExpiry _ | .lineClaim _ _ | .lineRelease _ _ | .lineConfig _ _ | .lineEnable _ _
  | .lineDisable _ _ | .lineRead _ _ | .pairConfig _ _ | .cutForce _ | .cutRestore _ _ | .cutConfig _ _ | .cutRead _
  | .captureSample _ _ | .cutoffPinSample _ | .syncSample _ => true

end Sys2Proof
end

