-- ==== Sys2Proof/Decode.lean ====
section
/-! DEFINITION. The codec of request frames: little-endian fields (R171), the CRC-8 (R172), command codes and payload
lengths (R173), reading a payload into a command and laying a command out as a payload (R173, R177 to R179). The opcode
table gives no row any bits, so decodeTableWord finds a command in no word. -/
namespace Sys2Proof

/-- The least significant byte first (R171). -/
def bytes16 (v : BitVec 16) : List Byte := [v.extractLsb' 0 8, v.extractLsb' 8 8]

def bytes24 (v : BitVec 24) : List Byte := [v.extractLsb' 0 8, v.extractLsb' 8 8, v.extractLsb' 16 8]

def bytes32 (v : BitVec 32) : List Byte :=
  [v.extractLsb' 0 8, v.extractLsb' 8 8, v.extractLsb' 16 8, v.extractLsb' 24 8]

/-- The byte at an offset of a payload; past its end, where no layout reads, 0. -/
def byteAt (p : List Byte) (off : Nat) : Byte := p.getD off 0#8

def word16At (p : List Byte) (off : Nat) : BitVec 16 := byteAt p (off + 1) ++ byteAt p off

def word24At (p : List Byte) (off : Nat) : BitVec 24 := byteAt p (off + 2) ++ word16At p off

def word32At (p : List Byte) (off : Nat) : BitVec 32 := byteAt p (off + 3) ++ word24At p off

/-- One shift of the CRC within 8 bits, combined with 0x07 when the bit shifted out was 1 (R172). -/
def crcShift (c : Byte) : Byte := if c.msb then (c <<< 1) ^^^ 0x07#8 else c <<< 1

/-- The CRC after one more byte: combined with it, then shifted eight times (R172). -/
def crcByte (c b : Byte) : Byte :=
  crcShift (crcShift (crcShift (crcShift (crcShift (crcShift (crcShift (crcShift (c ^^^ b))))))))

/-- The CRC-8 of a list of bytes in the order they are sent, starting from 0xFF (R172). -/
def crc8 (l : List Byte) : Byte := l.foldl crcByte 0xFF#8

/-- The payload length R173 gives for a command code; none for a code it does not list. -/
def commandLength (code : Byte) : Option Nat :=
  match code.toNat with
  | 0x01 => some 0 | 0x02 => some 0 | 0x03 => some 0 | 0x04 => some 0 | 0x05 => some 0 | 0x06 => some 0
  | 0x08 => some 0 | 0x09 => some 7 | 0x0A => some 1 | 0x0B => some 16
  | 0x10 => some 11 | 0x11 => some 0 | 0x12 => some 0 | 0x13 => some 0 | 0x14 => some 0
  | 0x18 => some 10 | 0x19 => some 1 | 0x1A => some 1 | 0x1B => some 3
  | 0x20 => some 6 | 0x21 => some 2 | 0x22 => some 1 | 0x23 => some 1
  | 0x28 => some 0 | 0x29 => some 1
  | 0x30 => some 21 | 0x31 => some 11 | 0x32 => some 1 | 0x33 => some 1 | 0x34 => some 0
  | 0x38 => some 1 | 0x39 => some 1 | 0x3A => some 4 | 0x3B => some 1 | 0x3C => some 1 | 0x3D => some 1 | 0x3E => some 4
  | 0x40 => some 0 | 0x41 => some 1 | 0x42 => some 5 | 0x43 => some 0
  | _ => none

/-- The command master `m` requests with a code and a payload of the code's length (R173). -/
def commandOf (m : Master) (code : Byte) (p : List Byte) : Option Instr :=
  match code.toNat with
  | 0x01 => some (.attach m)
  | 0x02 => some (.detach m)
  | 0x03 => some (.suspend m)
  | 0x04 => some (.resume m)
  | 0x05 => some (.status m)
  | 0x06 => some (.identify m)
  | 0x08 => some (.supvClaim m)
  | 0x09 => some (.rightsWrite m ⟨byteAt p 0, word24At p 1, byteAt p 4, byteAt p 5, byteAt p 6⟩)
  | 0x0A => some (.rightsRead m (byteAt p 0))
  | 0x0B => some (.labelWrite m (Vector.ofFn fun i => byteAt p i.val))
  | 0x10 => some (.tbConfig m ⟨byteAt p 0, word16At p 1, word24At p 3, byteAt p 6, word32At p 7⟩)
  | 0x11 => some (.tbRun m)
  | 0x12 => some (.tbHold m)
  | 0x13 => some (.tbResync m)
  | 0x14 => some (.tbRead m)
  | 0x18 => some (.capConfig m
      ⟨byteAt p 0, byteAt p 1, byteAt p 2, byteAt p 3, byteAt p 4, word16At p 5, word16At p 7, byteAt p 9⟩)
  | 0x19 => some (.capGate m (byteAt p 0))
  | 0x1A => some (.capRead m (byteAt p 0))
  | 0x1B => some (.groupConfig m (byteAt p 0) (word16At p 1))
  | 0x20 => some (.entryWrite m ⟨byteAt p 0, byteAt p 1, byteAt p 2, byteAt p 3, word16At p 4⟩)
  | 0x21 => some (.entryMask m (byteAt p 0) (byteAt p 1))
  | 0x22 => some (.entryRead m (byteAt p 0))
  | 0x23 => some (.done m (byteAt p 0))
  | 0x28 => some (.fetch m)
  | 0x29 => some (.attnEnable m (byteAt p 0))
  | 0x30 => some (.actSubmit m
      ⟨byteAt p 0, byteAt p 1, byteAt p 2, byteAt p 3, byteAt p 4, word32At p 5, word24At p 9, word24At p 12,
        word32At p 15, word16At p 19⟩)
  | 0x31 => some (.actModify m ⟨byteAt p 0, word24At p 1, word24At p 4, word32At p 7⟩)
  | 0x32 => some (.actCancel m (byteAt p 0))
  | 0x33 => some (.actRead m (byteAt p 0))
  | 0x34 => some (.actList m)
  | 0x38 => some (.lineClaim m (byteAt p 0))
  | 0x39 => some (.lineRelease m (byteAt p 0))
  | 0x3A => some (.lineConfig m ⟨byteAt p 0, byteAt p 1, byteAt p 2, byteAt p 3⟩)
  | 0x3B => some (.lineEnable m (byteAt p 0))
  | 0x3C => some (.lineDisable m (byteAt p 0))
  | 0x3D => some (.lineRead m (byteAt p 0))
  | 0x3E => some (.pairConfig m ⟨byteAt p 0, byteAt p 1, word16At p 2⟩)
  | 0x40 => some (.cutForce m)
  | 0x41 => some (.cutRestore m (byteAt p 0))
  | 0x42 => some (.cutConfig m ⟨byteAt p 0, byteAt p 1, byteAt p 2, word16At p 3⟩)
  | 0x43 => some (.cutRead m)
  | _ => none

/-- Reading a request's code and payload into a command: only a listed code with its own length is one (R163, R173). -/
def decodeRequest (m : Master) (code : Byte) (p : List Byte) : Option Instr :=
  if commandLength code = some p.length then commandOf m code p else none

/-- The master, code and payload of a command's request (R173, R177 to R179); an event of the part or of the field has
none. -/
def encodeRequest : Instr → Option (Master × Byte × List Byte)
  | .attach m => some (m, 0x01#8, [])
  | .detach m => some (m, 0x02#8, [])
  | .suspend m => some (m, 0x03#8, [])
  | .resume m => some (m, 0x04#8, [])
  | .status m => some (m, 0x05#8, [])
  | .identify m => some (m, 0x06#8, [])
  | .supvClaim m => some (m, 0x08#8, [])
  | .rightsWrite m f => some (m, 0x09#8, [f.master] ++ bytes24 f.entries ++ [f.lines, f.quota, f.timebase])
  | .rightsRead m x => some (m, 0x0A#8, [x])
  | .labelWrite m label => some (m, 0x0B#8, label.toList)
  | .tbConfig m f =>
    some (m, 0x10#8, [f.select] ++ bytes16 f.prescale ++ bytes24 f.framePeriod ++ [f.syncMode] ++ bytes32 f.resyncValue)
  | .tbRun m => some (m, 0x11#8, [])
  | .tbHold m => some (m, 0x12#8, [])
  | .tbResync m => some (m, 0x13#8, [])
  | .tbRead m => some (m, 0x14#8, [])
  | .capConfig m f =>
    some (m, 0x18#8, [f.line, f.mode, f.edgeSelect, f.activeLevel, f.filterLength] ++ bytes16 f.interval ++
      bytes16 f.prescale ++ [f.gateEnable])
  | .capGate m x => some (m, 0x19#8, [x])
  | .capRead m x => some (m, 0x1A#8, [x])
  | .groupConfig m g mask => some (m, 0x1B#8, [g] ++ bytes16 mask)
  | .entryWrite m f => some (m, 0x20#8, [f.entry, f.control, f.destinations, f.tag] ++ bytes16 f.deadline)
  | .entryMask m e mask => some (m, 0x21#8, [e, mask])
  | .entryRead m e => some (m, 0x22#8, [e])
  | .done m tag => some (m, 0x23#8, [tag])
  | .fetch m => some (m, 0x28#8, [])
  | .attnEnable m x => some (m, 0x29#8, [x])
  | .actSubmit m f =>
    some (m, 0x30#8, [f.kind, f.target, f.reference, f.notify, f.tag] ++ bytes32 f.time ++ bytes24 f.widthA ++
      bytes24 f.widthB ++ bytes32 f.period ++ bytes16 f.repeatCount)
  | .actModify m f => some (m, 0x31#8, [f.slot] ++ bytes24 f.widthA ++ bytes24 f.widthB ++ bytes32 f.period)
  | .actCancel m x => some (m, 0x32#8, [x])
  | .actRead m x => some (m, 0x33#8, [x])
  | .actList m => some (m, 0x34#8, [])
  | .lineClaim m x => some (m, 0x38#8, [x])
  | .lineRelease m x => some (m, 0x39#8, [x])
  | .lineConfig m f => some (m, 0x3A#8, [f.line, f.polarity, f.safe, f.cutEnable])
  | .lineEnable m x => some (m, 0x3B#8, [x])
  | .lineDisable m x => some (m, 0x3C#8, [x])
  | .lineRead m x => some (m, 0x3D#8, [x])
  | .pairConfig m f => some (m, 0x3E#8, [f.pair, f.mode] ++ bytes16 f.deadTime)
  | .cutForce m => some (m, 0x40#8, [])
  | .cutRestore m x => some (m, 0x41#8, [x])
  | .cutConfig m f => some (m, 0x42#8, [f.pinEnable, f.activeLevel, f.filterLength] ++ bytes16 f.interval)
  | .cutRead m => some (m, 0x43#8, [])
  | .deviceReset | .resetRelease | .requestFrame _ _ | .responseRead _ _ | .responsePlacement _ | .syncEdge _ | .tick
  | .servicePeriod | .deadlineExpiry _ | .captureQualification _ _ | .cutoffPinQualification _ | .actionFiring _
  | .pulseEnd _ | .deadTimeExpiry _ | .captureSample _ _ | .cutoffPinSample _ | .syncSample _ | .requestFirstByte _ _ =>
    none

/-- The command code echoed in a command's response (R173, R174); 0x00, which is no command's code, for an event. -/
def commandCode (i : Instr) : Byte :=
  match encodeRequest i with
  | some (_, code, _) => code
  | none => 0x00#8

/-- A whole request frame: code, length, payload, CRC-8 (R173). -/
def requestFrameBytes (code : Byte) (p : List Byte) : List Byte :=
  let covered := [code, BitVec.ofNat 8 p.length] ++ p
  covered ++ [crc8 covered]

/-- What the opcode table's bits spell: the table gives no row any bits, so no word spells a command. -/
def decodeTableWord (_nbits _w : Nat) : Option Instr := none

end Sys2Proof
end

