-- ==== Sys2Proof/Machine/State.lean ====
section
/-! DEFINITION. The state of the part as plain data: everything spec/ names (R1, R17, R27, R32, R35, R36, R74, R88, R89, R114,
R133, R145, R156), the queue of commands that wait, and the part's own reset values. -/
namespace Sys2Proof.Machine

/-- The pair of epoch and count at an event (R5). -/
structure Timestamp where
  epoch : BitVec 8
  count : Count
deriving DecidableEq, Repr

/-! ### Timebase (R1) -/

inductive RunState where
  | halted
  | running
deriving DecidableEq, Repr

inductive SyncMode where
  | off
  | rising
  | falling
deriving DecidableEq, Repr

structure Timebase where
  run            : RunState
  count          : Count
  epoch          : BitVec 8
  prescale       : Nat
  divider        : Nat
  framePeriod    : Nat
  staged         : Option Nat
  phase          : Nat
  syncMode       : SyncMode
  resyncValue    : Count
  syncSample     : Level
  serviceDivider : Nat
  /-- The timestamp {epoch, count} of the last tick announced to the other blocks (R3, R94; log 3). -/
  announced      : Timestamp
deriving DecidableEq, Repr

/-! ### Capture lines and groups (R17, R27, R32) -/

/-- A sampled and filtered pin: a capture line's (R17 to R20) and the CUTOFF pin's (R133, R134). -/
structure Filter where
  length   : Nat
  interval : Nat
  divider  : Nat
  sample   : Level
  run      : Nat
  level    : Level
  /-- A sample has been taken since reset: the first one is loaded into the qualified level (R17). -/
  loaded   : Bool
deriving DecidableEq, Repr

inductive CaptureMode where
  | edge
  | level
deriving DecidableEq, Repr

inductive EdgeSelect where
  | rising
  | falling
  | both
deriving DecidableEq, Repr

inductive Gate where
  | closed
  | opened
deriving DecidableEq, Repr

structure CaptureLine where
  mode           : CaptureMode
  edgeSelect     : EdgeSelect
  activeLevel    : Level
  filter         : Filter
  prescale       : Nat
  prescalerCount : Nat
  gateEnable     : Bool
  gate           : Gate
  lastTime       : Option Timestamp
  lastLevel      : Level
  eventCount     : BitVec 16
deriving DecidableEq, Repr

/-! ### The Steering Table (R35, R36) -/

inductive Delivery where
  | all
  | one
deriving DecidableEq, Repr

inductive EntryStatus where
  | idle
  | inService
  | held
deriving DecidableEq, Repr

/-- A running deadline timer (R62). -/
structure DeadlineTimer where
  remaining : Nat
  /-- The service period event that ends the timer has occurred and its expiry is still to be taken (R62, R64; log 4). -/
  expiring  : Bool
deriving DecidableEq, Repr

structure Entry where
  masked       : Bool
  destinations : MasterSet
  delivery     : Delivery
  tag          : Byte
  deadline     : BitVec 16
  cutoffSource : Bool
  awaiting     : MasterSet
  timer        : Option DeadlineTimer
  rotation     : Master
  status       : EntryStatus
deriving DecidableEq, Repr

/-! ### The Cutoff Unit (R133) -/

inductive CutSource where
  | entry (n : CapLine)
  | pin
  | force (m : Master)
deriving DecidableEq, Repr

inductive CutState where
  | armed
  | tripped
deriving DecidableEq, Repr

/-- A non-empty trip record; bit n of seen stands for En, bit 16 for PIN, bits 17 to 20 for FORCE by M0 to M3 (R175). -/
structure Trip where
  first : CutSource
  time  : Timestamp
  seen  : BitVec 21
deriving DecidableEq, Repr

structure Cutoff where
  state     : CutState
  trip      : Option Trip
  /-- Bit n stands for En, bit 16 for PIN. -/
  asserted  : BitVec 17
  pinEnable : Bool
  pinActive : Level
  filter    : Filter
deriving DecidableEq, Repr

/-! ### Notice Queues (R74 to R76) -/

inductive Attachment where
  | detached
  | attached
  | suspended
deriving DecidableEq, Repr

inductive CancelReason where
  | cutoff
  | revoked
  | released
  | detachedTarget
deriving DecidableEq, Repr

/-- The kind of a notice with its detail (R76). An EDGE_EVENT carries its edge count, which is shown when it is 2 or more. -/
inductive NoticeBody where
  | edgeEvent (edges : Nat)
  | levelEvent
  | groupEvent (snapshot : CapSet) (line : CapLine)
  | frame
  | resync (before : Count)
  | cutoffChange (state : CutState) (trip : Option Trip)
  | attachChange (master : Master) (state : Attachment)
  | lapsed (masters : MasterSet)
  | actionDone (firings : BitVec 16)
  | actionCancelled (reason : CancelReason)
  | overflow (losses : Nat) (firstLoss : Option Timestamp) (sources : BitVec 25)
deriving DecidableEq, Repr

structure Notice where
  body   : NoticeBody
  source : Fin 32
  tag    : Byte
  time   : Timestamp
deriving DecidableEq, Repr

structure NoticeQueue where
  /-- Oldest first. -/
  notices     : List Notice
  losses      : Nat
  firstLoss   : Option Timestamp
  /-- Bit n stands for En, bit 24 for the ACTION indicator (R176). -/
  lostSources : BitVec 25
  enable      : Bool
deriving DecidableEq, Repr

/-! ### The Action Schedule (R88, R89) -/

inductive ActionKind where
  | set
  | clear
  | toggle
  | pulse
  | gateOpen
  | mark
deriving DecidableEq, Repr

inductive Target where
  | output (l : OutLine)
  | capture (n : CapLine)
  | absent
deriving DecidableEq, Repr

/-- ARMED, or ACTIVE with its end time, which is present exactly then (R89). -/
inductive ActionPhase where
  | armed
  | active (stop : Count)
deriving DecidableEq, Repr

inductive NextWidth where
  | a
  | b
deriving DecidableEq, Repr

inductive Notify where
  | never
  | each
  | last
deriving DecidableEq, Repr

structure StagedUpdate where
  widthA : Option Nat
  widthB : Option Nat
  period : Nat
deriving DecidableEq, Repr

structure ActionRecord where
  owner       : Master
  kind        : ActionKind
  target      : Target
  due         : Count
  phase       : ActionPhase
  widthA      : Option Nat
  widthB      : Option Nat
  nextWidth   : NextWidth
  period      : Nat
  repeatCount : Nat
  /-- Firings still to come; none stands for unlimited. -/
  remaining   : Option Nat
  firings     : BitVec 16
  notify      : Notify
  tag         : Byte
  staged      : Option StagedUpdate
deriving DecidableEq, Repr

/-! ### Output lines and pairs (R114) -/

inductive Drive where
  | float
  | disabled
  | driven
  | cut
deriving DecidableEq, Repr

inductive Polarity where
  | activeHigh
  | activeLow
deriving DecidableEq, Repr

/-- An electrical output level, and the values of a safe level. -/
inductive Electrical where
  | low
  | high
  | float
deriving DecidableEq, Repr

structure OutputLine where
  owner     : Option Master
  drive     : Drive
  polarity  : Polarity
  safe      : Electrical
  cutEnable : Bool
  /-- The logical level: active or not. -/
  active    : Bool
deriving DecidableEq, Repr

inductive PairMode where
  | independent
  | complement
deriving DecidableEq, Repr

inductive PairState where
  | aActive
  | bActive
  | deadToA
  | deadToB
deriving DecidableEq, Repr

inductive Side where
  | a
  | b
deriving DecidableEq, Repr

structure DeadTimeRecord where
  line      : Side
  remaining : Nat
  /-- The tick that ends the dead time has been announced and its expiry is still to be taken (R128; log 3). -/
  expiring  : Bool
deriving DecidableEq, Repr

structure Pair where
  mode     : PairMode
  deadTime : Nat
  state    : Option PairState
  record   : Option DeadTimeRecord
deriving DecidableEq, Repr

/-! ### The Rights Unit (R145) -/

structure Rights where
  entries  : EntrySet
  lines    : LineSet
  quota    : Nat
  timebase : Bool
deriving DecidableEq, Repr

/-! ### Master Ports (R156) -/

/-- The status of a response (R174). -/
inductive Status where
  | ok
  | pending
  | nothing
  | badFrame
  | badCmd
  | badArg
  | badState
  | notAttached
  | denied
  | notOwner
  | taken
  | full
  | late
  | notFound
  | inService
  | inUse
  | cut
  | active
  | once
  | noMatch
deriving DecidableEq, Repr

structure Response where
  status     : Status
  code       : Byte
  collided   : Bool
  replaced   : Bool
  restricted : Bool
  payload    : List Byte
deriving DecidableEq, Repr

inductive PortState where
  | idle
  | receiving
  | executing
  | responseReady
deriving DecidableEq, Repr

/-- What an EXECUTING port waits for: the command it has handed on to be executed, or its built response to be placed
(R160). -/
inductive Execution where
  | taken (command : Instr)
  | built (response : Response)
deriving DecidableEq, Repr

structure Port where
  state      : PortState
  slot       : Option Response
  collided   : Bool
  replaced   : Bool
  attachment : Attachment
  execution  : Option Execution
  /-- A byte of the open chip-select period has been seen: of a request frame, or of any period while RESET is low (R156, R157;
  log 10). -/
  selected   : Bool
  /-- The chip-select has been low since before RESET was released: its period is ignored (R156; log 10). -/
  stale      : Bool
  /-- What SDO shifted out in the last response read (R161; log 10). -/
  shifted    : List Byte
deriving DecidableEq, Repr

/-! ### The whole part -/

structure State where
  /-- The RESET input is held low (R156). -/
  resetHeld  : Bool
  /-- The levels on CAP0 to CAP15, SYNC and CUTOFF (log 7). -/
  capPins    : Vector Level 16
  syncPin    : Level
  cutoffPin  : Level
  timebase   : Timebase
  captures   : Vector CaptureLine 16
  groups     : Vector CapSet 4
  entries    : Vector Entry 24
  queues     : Vector NoticeQueue 4
  actions    : Vector (Option ActionRecord) 32
  lines      : Vector OutputLine 8
  pairs      : Vector Pair 4
  cutoff     : Cutoff
  supervisor : Option Master
  label      : Option (Vector Byte 16)
  rights     : Vector Rights 4
  ports      : Vector Port 4
  /-- The model's own: each choice of an order the spec leaves open takes the next number (log 6), and so does the set of
  chip-selects the outside holds low at a release of RESET (log 10). -/
  arbiter    : List Nat
  /-- The commands that wait, first in first out. -/
  pending    : List Instr
deriving DecidableEq, Repr

/-- Why a step faults: never. The manual gives no condition in which the part stops; every refusal of a command is a status
in its response (R174; log 16). -/
inductive Fault where
deriving DecidableEq, Repr

/-- Why a step is refused. -/
inductive Refusal where
  /-- Raised by exec's arm of a command that has no meaning yet; safe. Every command has one, so nothing raises it. -/
  | notModelled (mnemonic : String)
deriving DecidableEq, Repr

/-! ### Reset values -/

def Timebase.reset : Timebase where
  run := .halted
  count := 0
  epoch := 0
  prescale := 1
  divider := 0
  framePeriod := 0
  staged := none
  phase := 0
  syncMode := .off
  resyncValue := 0
  syncSample := .low
  serviceDivider := 0
  announced := ⟨0, 0⟩

/-- R17, and R133 for the CUTOFF pin. -/
def Filter.reset : Filter where
  length := 0
  interval := 1
  divider := 0
  sample := .low
  run := 0
  level := .low
  loaded := false

def CaptureLine.reset : CaptureLine where
  mode := .edge
  edgeSelect := .rising
  activeLevel := .high
  filter := Filter.reset
  prescale := 1
  prescalerCount := 0
  gateEnable := false
  gate := .opened
  lastTime := none
  lastLevel := .low
  eventCount := 0

def Entry.reset : Entry where
  masked := true
  destinations := 0
  delivery := .all
  tag := 0
  deadline := 0
  cutoffSource := false
  awaiting := 0
  timer := none
  rotation := 0
  status := .idle

def NoticeQueue.reset : NoticeQueue where
  notices := []
  losses := 0
  firstLoss := none
  lostSources := 0
  enable := false

def OutputLine.reset : OutputLine where
  owner := none
  drive := .float
  polarity := .activeHigh
  safe := .float
  cutEnable := false
  active := false

def Pair.reset : Pair where
  mode := .independent
  deadTime := 0
  state := none
  record := none

def Cutoff.reset : Cutoff where
  state := .armed
  trip := none
  asserted := 0
  pinEnable := false
  pinActive := .low
  filter := Filter.reset

def Rights.reset : Rights where
  entries := BitVec.allOnes 24
  lines := BitVec.allOnes 8
  quota := Config.resetQuota
  timebase := true

def Port.reset : Port where
  state := .idle
  slot := none
  collided := false
  replaced := false
  attachment := .detached
  execution := none
  selected := false
  stale := false
  shifted := []

/-- The part right after device reset, with RESET released (log 9). -/
def State.reset : State where
  resetHeld := false
  capPins := Vector.replicate 16 .low
  syncPin := .low
  cutoffPin := .low
  timebase := Timebase.reset
  captures := Vector.replicate 16 CaptureLine.reset
  groups := Vector.replicate 4 0
  entries := Vector.replicate 24 Entry.reset
  queues := Vector.replicate 4 NoticeQueue.reset
  actions := Vector.replicate 32 none
  lines := Vector.replicate 8 OutputLine.reset
  pairs := Vector.replicate 4 Pair.reset
  cutoff := Cutoff.reset
  supervisor := none
  label := none
  rights := Vector.replicate 4 Rights.reset
  ports := Vector.replicate 4 Port.reset
  arbiter := []
  pending := []

end Sys2Proof.Machine
end

