-- ==== Sys2Proof/Machine/Ops.lean ====
section
/-! DEFINITION. The named operations over the state: reading and replacing one part of it, membership in the sets of R171,
taking hand-offs in an order the spec leaves open, and the port's side of a command: taking the request, refusing it at the
gate, and building its response (R159, R160, R163). -/
namespace Sys2Proof.Machine

/-! ### Reading and replacing a part of the state -/

def State.capture (s : State) (n : CapLine) : CaptureLine := s.captures[n]
def State.group (s : State) (g : GroupIx) : CapSet := s.groups[g]
def State.entry (s : State) (e : EntryIx) : Entry := s.entries[e]
def State.queue (s : State) (m : Master) : NoticeQueue := s.queues[m]
def State.action (s : State) (n : Slot) : Option ActionRecord := s.actions[n]
def State.line (s : State) (l : OutLine) : OutputLine := s.lines[l]
def State.pair (s : State) (p : PairIx) : Pair := s.pairs[p]
def State.right (s : State) (m : Master) : Rights := s.rights[m]
def State.port (s : State) (m : Master) : Port := s.ports[m]

def State.setTimebase (s : State) (t : Timebase) : State := { s with timebase := t }
def State.setCapture (s : State) (n : CapLine) (c : CaptureLine) : State := { s with captures := s.captures.set n c }
def State.setGroup (s : State) (g : GroupIx) (mask : CapSet) : State := { s with groups := s.groups.set g mask }
def State.setEntry (s : State) (e : EntryIx) (x : Entry) : State := { s with entries := s.entries.set e x }
def State.setQueue (s : State) (m : Master) (q : NoticeQueue) : State := { s with queues := s.queues.set m q }
def State.setAction (s : State) (n : Slot) (r : Option ActionRecord) : State := { s with actions := s.actions.set n r }
def State.setLine (s : State) (l : OutLine) (x : OutputLine) : State := { s with lines := s.lines.set l x }
def State.setPair (s : State) (p : PairIx) (x : Pair) : State := { s with pairs := s.pairs.set p x }
def State.setCutoff (s : State) (c : Cutoff) : State := { s with cutoff := c }
def State.setRight (s : State) (m : Master) (r : Rights) : State := { s with rights := s.rights.set m r }
def State.setPort (s : State) (m : Master) (p : Port) : State := { s with ports := s.ports.set m p }

def State.attachment (s : State) (m : Master) : Attachment := (s.port m).attachment

def State.setAttachment (s : State) (m : Master) (a : Attachment) : State :=
  s.setPort m { s.port m with attachment := a }

/-- The current timestamp (R5). -/
def State.now (s : State) : Timestamp := ⟨s.timebase.epoch, s.timebase.count⟩

/-! ### Sets (R171) -/

/-- A set holding one member. -/
def single {w : Nat} (n : Nat) : BitVec w := 1#w <<< n

/-- A set without a member. -/
def without {w : Nat} (x : BitVec w) (n : Nat) : BitVec w := x &&& ~~~ (single n)

/-- The set of the members a condition holds of. -/
def setOf {w : Nat} (f : Fin w → Bool) : BitVec w :=
  (List.finRange w).foldl (fun x i => if f i then x ||| single i.val else x) 0#w

/-- The number of members a condition holds of. -/
def countOf (w : Nat) (f : Fin w → Bool) : Nat := (List.finRange w).countP f

/-! ### Orders the spec leaves open (log 6) -/

/-- A list with one more member at a place. -/
def insertAt {α : Type} : Nat → α → List α → List α
  | 0, x, l => x :: l
  | _ + 1, x, [] => [x]
  | k + 1, x, y :: l => y :: insertAt k x l

/-- The permutation of a list that a number names; 0 names the list as it stands, and every permutation has a number. -/
def arrange {α : Type} : Nat → List α → List α
  | _, [] => []
  | k, x :: l => insertAt (k % (l.length + 1)) x (arrange (k / (l.length + 1)) l)

/-- The number that decides the next open order, 0 when the list of choices has run out. -/
def State.choice (s : State) : Nat := s.arbiter.headD 0

def State.spendChoice (s : State) : State := { s with arbiter := s.arbiter.tail }

/-- Several hand-offs that carry no order among themselves, taken one after the other, each in full, in the order the next
choice gives. One hand-off alone leaves nothing to choose. That a hand-off is taken in full at every queue it reaches before the
next one, so that two queues never see two hand-offs in two orders, is the model's choice (R61, R79; log 26). -/
def State.inAnyOrder (s : State) (handOffs : List (State → State)) : State :=
  match handOffs with
  | [] => s
  | [f] => f s
  | f :: g :: rest => (arrange s.choice (f :: g :: rest)).foldl (fun t h => h t) s.spendChoice

/-! ### A command at its port -/

/-- What a block answers a command with: the status, the payload, and whether an ENTRY_READ was restricted (R162). -/
structure Answer where
  status     : Status
  payload    : List Byte
  restricted : Bool
deriving DecidableEq, Repr

/-- A status other than OK carries no payload (R174), but for SUPV_CLAIM's TAKEN and DONE's NO_MATCH. -/
def Answer.refusal (st : Status) : Answer := ⟨st, [], false⟩

def Answer.ok (payload : List Byte) : Answer := ⟨.ok, payload, false⟩

/-- What a command refused by its block leaves and answers: nothing changed, the status alone. -/
def State.refuse (s : State) (st : Status) : State × Answer := (s, Answer.refusal st)

/-- The response built for the execution in progress, whose flags are copied in when it is placed (R160). -/
def State.answer (s : State) (m : Master) (code : Byte) (a : Answer) : State :=
  s.setPort m { s.port m with execution := some (.built ⟨a.status, code, false, false, a.restricted, a.payload⟩) }

/-- R160: the end of an execution. The response goes into the slot with the marks as its flags, the marks are cleared, and the
port becomes RESPONSE_READY. An execution that has built no response yet is not at its end. -/
def Port.place (p : Port) : Port :=
  match p.execution with
  | some (.built r) =>
    { p with
      state := .responseReady
      slot := some { r with collided := p.collided, replaced := p.replaced }
      collided := false
      replaced := false
      execution := none }
  | some (.taken _) => p
  | none => p

/-- R159, a valid frame that ends at a port that is not EXECUTING: an unread response is discarded and sets the replaced mark,
and the port becomes EXECUTING. -/
def Port.accept (p : Port) : Port :=
  { p with
    state := .executing
    slot := none
    replaced := p.replaced || p.slot.isSome
    selected := false
    stale := false }

/-- R159, a frame that ends at an EXECUTING port: discarded, and the collided mark set. Its chip-select is high again (R157). -/
def Port.collide (p : Port) : Port := { p with collided := true, selected := false, stale := false }

/-- R163, check 3: the status that refuses a command to a master in an attachment state, if any. -/
def admission (i : Instr) (a : Attachment) : Option Status :=
  match i, a with
  | .attach _, .detached => none
  | .attach _, .attached => some .badState
  | .attach _, .suspended => some .badState
  | .resume _, .detached => some .notAttached
  | .resume _, .attached => some .badState
  | .resume _, .suspended => none
  | .detach _, _ => none
  | .status _, _ => none
  | .identify _, _ => none
  | _, .detached => some .notAttached
  | _, .attached => none
  | _, .suspended => some .badState

/-- A command carried out by its block, and its response built at the port (R160). -/
def State.perform (s : State) (m : Master) (i : Instr) (body : State → State × Answer) : State :=
  (body s).1.answer m (commandCode i) (body s).2

/-- A command's step (log 2). While RESET is low nothing is taken (R156). A port that is executing this very command, which its
frame handed on (R159), has it carried out. A port that is executing another command meets the request as a collision. At any
other port the row stands for the whole of its valid frame: a response still to be placed is placed first (R170), the frame is
accepted, and the command is refused at the gate or carried out. -/
def State.request (s : State) (m : Master) (i : Instr) (body : State → State × Answer) : State :=
  if s.resetHeld then s
  else
    match (s.port m).execution with
    | some (.taken j) => if j = i then s.perform m i body else s.setPort m (s.port m).collide
    | _ =>
      let t := s.setPort m (s.port m).place.accept
      match admission i (s.attachment m) with
      | some st => t.answer m (commandCode i) (Answer.refusal st)
      | none => t.perform m i body

/-- An event of the part or of the field: nothing happens while RESET is held low (R156). -/
def State.event (s : State) (f : State → State) : State := if s.resetHeld then s else f s

end Sys2Proof.Machine
end

