-- ==== Sys2Proof/Machine/Operands.lean ====
section
/-! DEFINITION. Reading the fields of a request payload (R171, R175): every function answers none for a value the field does
not have, which its command refuses with BAD_ARG in the place its chapter gives. -/
namespace Sys2Proof.Machine

/-- A number of a master, line, pair, group, entry or slot. -/
def indexOf (n : Nat) (b : Byte) : Option (Fin n) := if h : b.toNat < n then some ⟨b.toNat, h⟩ else none

/-- A switch: 0 off or clear, 1 on or set (R175). -/
def switchOf (b : Byte) : Option Bool :=
  match b.toNat with
  | 0 => some false
  | 1 => some true
  | _ => none

/-- 0 OFF, 1 RISING, 2 FALLING (R175). -/
def syncModeOf (b : Byte) : Option SyncMode :=
  match b.toNat with
  | 0 => some .off
  | 1 => some .rising
  | 2 => some .falling
  | _ => none

/-- 0 EDGE, 1 LEVEL (R175). -/
def captureModeOf (b : Byte) : Option CaptureMode :=
  match b.toNat with
  | 0 => some .edge
  | 1 => some .level
  | _ => none

/-- 0 RISING, 1 FALLING, 2 BOTH (R175). -/
def edgeSelectOf (b : Byte) : Option EdgeSelect :=
  match b.toNat with
  | 0 => some .rising
  | 1 => some .falling
  | 2 => some .both
  | _ => none

/-- 0 LOW, 1 HIGH (R175). -/
def levelOf (b : Byte) : Option Level :=
  match b.toNat with
  | 0 => some .low
  | 1 => some .high
  | _ => none

/-- 0..15 samples (R28, R142). -/
def filterLengthOf (b : Byte) : Option Nat := if b.toNat ≤ 15 then some b.toNat else none

/-- 1, 8, 64 or 512 reference periods, as a number (R175). -/
def intervalOf (w : BitVec 16) : Option Nat :=
  match w.toNat with
  | 1 => some 1
  | 8 => some 8
  | 64 => some 64
  | 512 => some 512
  | _ => none

/-- 1..256 (R9, R28). -/
def prescaleOf (w : BitVec 16) : Option Nat := if 1 ≤ w.toNat ∧ w.toNat ≤ 256 then some w.toNat else none

/-- 0, or 2..2^24 − 1 ticks (R9). -/
def framePeriodOf (w : BitVec 24) : Option Nat := if w.toNat = 1 then none else some w.toNat

/-- 0 SET, 1 CLEAR, 2 TOGGLE, 3 PULSE, 4 GATE_OPEN, 5 MARK (R175). -/
def actionKindOf (b : Byte) : Option ActionKind :=
  match b.toNat with
  | 0 => some .set
  | 1 => some .clear
  | 2 => some .toggle
  | 3 => some .pulse
  | 4 => some .gateOpen
  | 5 => some .mark
  | _ => none

/-- How the time value of a submission becomes its due time (R90). -/
inductive TimingReference where
  | absolute
  | relative
  | frame
deriving DecidableEq, Repr

/-- 0 ABSOLUTE, 1 RELATIVE, 2 FRAME (R175). -/
def referenceOf (b : Byte) : Option TimingReference :=
  match b.toNat with
  | 0 => some .absolute
  | 1 => some .relative
  | 2 => some .frame
  | _ => none

/-- 0 NONE, 1 EACH, 2 LAST (R175). -/
def notifyOf (b : Byte) : Option Notify :=
  match b.toNat with
  | 0 => some .never
  | 1 => some .each
  | 2 => some .last
  | _ => none

/-- The target a kind suits: an output line, a capture line, or none, written 0xFF (R91, R171). -/
def targetOf (k : ActionKind) (b : Byte) : Option Target :=
  match k with
  | .set | .clear | .toggle | .pulse => (indexOf 8 b).map .output
  | .gateOpen => (indexOf 16 b).map .capture
  | .mark => if b = 0xFF#8 then some .absent else none

/-- A width that may be absent, written 0 then (R171). -/
def widthOf (w : BitVec 24) : Option Nat := if w.toNat = 0 then none else some w.toNat

/-- 0 ACTIVE_HIGH, 1 ACTIVE_LOW (R175). -/
def polarityOf (b : Byte) : Option Polarity :=
  match b.toNat with
  | 0 => some .activeHigh
  | 1 => some .activeLow
  | _ => none

/-- 0 LOW, 1 HIGH, 2 FLOAT (R175). -/
def safeLevelOf (b : Byte) : Option Electrical :=
  match b.toNat with
  | 0 => some .low
  | 1 => some .high
  | 2 => some .float
  | _ => none

/-- 0 INDEPENDENT, 1 COMPLEMENT (R175). -/
def pairModeOf (b : Byte) : Option PairMode :=
  match b.toNat with
  | 0 => some .independent
  | 1 => some .complement
  | _ => none

/-- 0..1023 ticks (R124). -/
def deadTimeOf (w : BitVec 16) : Option Nat := if w.toNat ≤ 1023 then some w.toNat else none

/-- A set of masters in a byte, whose upper four bits name nothing and must be 0 (R171). -/
def masterSetOf (b : Byte) : Option MasterSet := if b.toNat < 16 then some (b.extractLsb' 0 4) else none

/-- The settings a TB_CONFIG selects (R9, R173). -/
structure TimebaseSettings where
  prescale    : Option Nat
  framePeriod : Option Nat
  syncMode    : Option SyncMode
  resyncValue : Option Count
deriving DecidableEq, Repr

/-- An unselected setting is not decoded (R171); a selected one must have a value. -/
def selected {α : Type} (chosen : Bool) (v : Option α) : Option (Option α) :=
  if chosen then v.map some else some none

/-- R9, check 2: none when the select set is empty, names nothing known (its bits 4 to 7; log 17), or a selected value is out
of range. -/
def timebaseSettingsOf (f : TbFields) : Option TimebaseSettings :=
  if f.select.toNat = 0 ∨ 16 ≤ f.select.toNat then none
  else
    match selected (f.select.getLsbD 0) (prescaleOf f.prescale), selected (f.select.getLsbD 1) (framePeriodOf f.framePeriod),
      selected (f.select.getLsbD 2) (syncModeOf f.syncMode), selected (f.select.getLsbD 3) (some f.resyncValue) with
    | some p, some fp, some m, some v => some ⟨p, fp, m, v⟩
    | _, _, _, _ => none

/-- The configuration of a capture line (R28). -/
structure CaptureSettings where
  mode        : CaptureMode
  edgeSelect  : EdgeSelect
  activeLevel : Level
  length      : Nat
  interval    : Nat
  prescale    : Nat
  gateEnable  : Bool
deriving DecidableEq, Repr

/-- R28, check 3. -/
def captureSettingsOf (f : CapFields) : Option CaptureSettings :=
  match captureModeOf f.mode, edgeSelectOf f.edgeSelect, levelOf f.activeLevel, filterLengthOf f.filterLength,
    intervalOf f.interval, prescaleOf f.prescale, switchOf f.gateEnable with
  | some m, some e, some a, some l, some i, some p, some g => some ⟨m, e, a, l, i, p, g⟩
  | _, _, _, _, _, _, _ => none

/-- The programmable fields of an entry (R35). -/
structure EntrySettings where
  masked       : Bool
  delivery     : Delivery
  cutoffSource : Bool
  destinations : MasterSet
  tag          : Byte
  deadline     : BitVec 16
deriving DecidableEq, Repr

/-- R51, check 3: the control byte's bits 3 to 7 and the destination set's bits 4 to 7 name nothing (R171, R177; log 17). -/
def entrySettingsOf (f : EntryFields) : Option EntrySettings :=
  match masterSetOf f.destinations with
  | none => none
  | some d =>
    if 8 ≤ f.control.toNat then none
    else
      some
        { masked := f.control.getLsbD 0
          delivery := if f.control.getLsbD 1 then .one else .all
          cutoffSource := f.control.getLsbD 2
          destinations := d
          tag := f.tag
          deadline := f.deadline }

/-- A rights record with its master (R149). -/
structure RightsSettings where
  master : Master
  rights : Rights
deriving DecidableEq, Repr

/-- R149, check 2. -/
def rightsSettingsOf (f : RightsFields) : Option RightsSettings :=
  match indexOf 4 f.master, switchOf f.timebase with
  | some m, some t =>
    if f.quota.toNat ≤ Config.quotaCeiling then some ⟨m, ⟨f.entries, f.lines, f.quota.toNat, t⟩⟩ else none
  | _, _ => none

/-- The configuration of an output line (R119). -/
structure LineSettings where
  polarity  : Polarity
  safe      : Electrical
  cutEnable : Bool
deriving DecidableEq, Repr

/-- R119, check 1, the values. -/
def lineSettingsOf (f : LineFields) : Option LineSettings :=
  match polarityOf f.polarity, safeLevelOf f.safe, switchOf f.cutEnable with
  | some p, some s, some c => some ⟨p, s, c⟩
  | _, _, _ => none

/-- The settings of the CUTOFF pin (R142). -/
structure PinSettings where
  enable      : Bool
  activeLevel : Level
  length      : Nat
  interval    : Nat
deriving DecidableEq, Repr

/-- R142, the ranges. -/
def pinSettingsOf (f : CutFields) : Option PinSettings :=
  match switchOf f.pinEnable, levelOf f.activeLevel, filterLengthOf f.filterLength, intervalOf f.interval with
  | some e, some a, some l, some i => some ⟨e, a, l, i⟩
  | _, _, _, _ => none

end Sys2Proof.Machine
end

