-- ==== Sys2Proof/Machine/Flags.lean ====
section
/-! DEFINITION. The conditions that follow from other state: the asserted condition of a line and of the CUTOFF pin (R17,
R134), an entry's trigger (R34), who is deliverable (R38), the attention output (R83), the flags byte (R162), the electrical
level of an output pin (R116, R126), and who owns and holds what. -/
namespace Sys2Proof.Machine

/-- A capture line in LEVEL mode is asserted while its qualified level equals its active level (R17). -/
def CaptureLine.asserted (c : CaptureLine) : Bool := c.mode == .level && c.filter.level == c.activeLevel

/-- The entry a capture line feeds: CLn feeds En (R34). -/
def capEntry (n : CapLine) : EntryIx := ⟨n.val, by omega⟩

/-- The entry a group feeds: Gg feeds E16 + g (R34). -/
def groupEntry (g : GroupIx) : EntryIx := ⟨16 + g.val, by omega⟩

/-- FRAME, RESYNC, CUTOFF change and ATTACH_CHANGE (R34). -/
abbrev frameEntry : EntryIx := 20
abbrev resyncEntry : EntryIx := 21
abbrev cutoffEntry : EntryIx := 22
abbrev attachEntry : EntryIx := 23

/-- The capture line of one of E0 to E15. -/
def entryLine (e : EntryIx) : Option CapLine := if h : e.val < 16 then some ⟨e.val, h⟩ else none

/-- A level entry: one of E0 to E15 whose line is in LEVEL mode (R34). -/
def State.levelEntry (s : State) (e : EntryIx) : Bool :=
  match entryLine e with
  | some n => (s.capture n).mode == .level
  | none => false

/-- The asserted condition of an entry's line; E16 to E23 have none and count as deasserted (R54). -/
def State.entryAsserted (s : State) (e : EntryIx) : Bool :=
  match entryLine e with
  | some n => (s.capture n).asserted
  | none => false

/-- R38. -/
def State.deliverable (s : State) (e : EntryIx) (m : Master) : Bool :=
  (s.entry e).destinations.getLsbD m && s.attachment m == .attached

/-- The attention output of a port is asserted, driven low (R83). -/
def State.attention (s : State) (m : Master) : Bool :=
  s.attachment m == .attached && (s.queue m).enable && !(s.queue m).notices.isEmpty

/-- The queue's depth (R74). -/
def State.depth (s : State) (m : Master) : Nat := (s.queue m).notices.length

/-- The overflow record is non-empty (R74). -/
def NoticeQueue.overflowing (q : NoticeQueue) : Bool := q.losses != 0

/-- The CUTOFF pin is asserted (R134). -/
def Cutoff.pinAsserted (c : Cutoff) : Bool := c.pinEnable && c.filter.level == c.pinActive

/-- The programming right on an entry (R145). -/
def State.programs (s : State) (m : Master) (e : EntryIx) : Bool := (s.right m).entries.getLsbD e

/-- The snapshot of the qualified levels of all sixteen lines (R32). -/
def State.snapshot (s : State) : CapSet := setOf fun n => (s.capture n).filter.level == .high

/-- The groups whose mask includes a line (R31). -/
def State.groupsOf (s : State) (n : CapLine) : BitVec 4 := setOf fun g => (s.group g).getLsbD n

/-! ### Output lines and pairs -/

/-- The pair of a line. -/
def pairOf (l : OutLine) : PairIx := ⟨l.val / 2, by omega⟩

/-- Line A and line B of a pair (R114). -/
def lineA (p : PairIx) : OutLine := ⟨2 * p.val, by omega⟩
def lineB (p : PairIx) : OutLine := ⟨2 * p.val + 1, by omega⟩

/-- The side of its pair a line is. -/
def sideOf (l : OutLine) : Side := if l.val % 2 = 0 then .a else .b

/-- The pair is in COMPLEMENT mode. -/
def State.complement (s : State) (p : PairIx) : Bool := (s.pair p).mode == .complement

/-- The line is a COMPLEMENT B line (7.2). -/
def State.complementB (s : State) (l : OutLine) : Bool := s.complement (pairOf l) && sideOf l == .b

/-- The line a change of a line is decided at: its pair's A line in COMPLEMENT mode, else itself (R123). -/
def State.lead (s : State) (l : OutLine) : OutLine := if s.complement (pairOf l) then lineA (pairOf l) else l

/-- A level of a pin through a line's polarity (R116). -/
def OutputLine.pinLevel (x : OutputLine) (active : Bool) : Electrical :=
  match x.polarity, active with
  | .activeHigh, true => .high
  | .activeHigh, false => .low
  | .activeLow, true => .low
  | .activeLow, false => .high

/-- Which pin of a COMPLEMENT pair shows its active level (R126). -/
def PairState.pinActive : PairState → Side → Bool
  | .aActive, .a => true
  | .bActive, .b => true
  | _, _ => false

/-- The logical levels a pair state fixes (R126). -/
def PairState.logical : PairState → Side → Bool
  | .aActive, .a => true
  | .deadToA, .a => true
  | .bActive, .b => true
  | .deadToB, .b => true
  | _, _ => false

/-- The pin of a line is at its active level, while DRIVEN (R116, R126). -/
def State.drivenActive (s : State) (l : OutLine) : Bool :=
  match (s.pair (pairOf l)).mode with
  | .independent => (s.line l).active
  | .complement =>
    match (s.pair (pairOf l)).state with
    | some ps => ps.pinActive (sideOf l)
    | none => false

/-- The electrical level of an output pin (R116). -/
def State.electrical (s : State) (l : OutLine) : Electrical :=
  match (s.line l).drive with
  | .float => .float
  | .disabled => (s.line l).pinLevel false
  | .driven => (s.line l).pinLevel (s.drivenActive l)
  | .cut => (s.line l).safe

/-- A record targets an output line. -/
def ActionRecord.onLine (r : ActionRecord) (l : OutLine) : Bool := r.target == .output l

/-- The held count: the slots holding records of a master (R105). -/
def State.held (s : State) (m : Master) : Nat :=
  countOf 32 fun n =>
    match s.action n with
    | some r => r.owner == m
    | none => false

/-- At least one record targets the line (R121). -/
def State.lineInUse (s : State) (l : OutLine) : Bool :=
  (List.finRange 32).any fun n =>
    match s.action n with
    | some r => r.onLine l
    | none => false

/-- The sum of the four quotas (R149). -/
def State.quotaSum (s : State) : Nat := (s.right 0).quota + (s.right 1).quota + (s.right 2).quota + (s.right 3).quota

/-! ### Times (R3, R88) -/

/-- The distance from a count to a time (R3). -/
def distance (c t : Count) : Count := t - c

/-- A time is ahead of the count when its distance is 1 to 2^31 − 1 (R3). -/
def ahead (c t : Count) : Bool := 1 ≤ (distance c t).toNat && (distance c t).toNat ≤ Config.horizon

/-- The next event time of a record: due while ARMED, end while ACTIVE (R88). -/
def ActionRecord.nextTime (r : ActionRecord) : Count :=
  match r.phase with
  | .armed => r.due
  | .active stop => stop

def ActionRecord.isActive (r : ActionRecord) : Bool :=
  match r.phase with
  | .armed => false
  | .active _ => true

/-! ### The SDO pins (R156, R157) -/

/-- What SDO shifts out in an open chip-select period, or nothing, for high impedance: while RESET is low (R156) and while
chip-select is deasserted or taken as deasserted (R156, R157). A period is open between two steps only when it is a request frame,
in which SDO shifts out 0x00 (R157); a response read is one step, and the port holds the bytes it shifted out (log 10). -/
def State.sdo (s : State) (m : Master) : Option Byte :=
  if s.resetHeld || (s.port m).stale || !(s.port m).selected then none else some 0x00#8

/-! ### The flags byte (R162, R174) -/

/-- Bit 0 ATTN, bit 1 COLLIDED, bit 2 REPLACED, bit 3 RESTRICTED. -/
def flagsByte (attn collided replaced restricted : Bool) : Byte :=
  BitVec.ofNat 8 (attn.toNat + 2 * collided.toNat + 4 * replaced.toNat + 8 * restricted.toNat)

end Sys2Proof.Machine
end

