-- ==== Sys2Proof/Machine/Formats.lean ====
section
/-! DEFINITION. The bytes of responses: enumerations (R175), timestamps, sets and absent values (R171), the notice record
(R176), the reply of a response read (R161, R174) and the check of a request frame (R158). -/
namespace Sys2Proof.Machine

/-! ### Enumerations (R175) -/

def flagCode (b : Bool) : Byte := if b then 1#8 else 0#8

def levelCode : Level → Byte
  | .low => 0#8
  | .high => 1#8

def attachmentCode : Attachment → Byte
  | .detached => 0#8
  | .attached => 1#8
  | .suspended => 2#8

def runCode : RunState → Byte
  | .halted => 0#8
  | .running => 1#8

def syncModeCode : SyncMode → Byte
  | .off => 0#8
  | .rising => 1#8
  | .falling => 2#8

def captureModeCode : CaptureMode → Byte
  | .edge => 0#8
  | .level => 1#8

def edgeSelectCode : EdgeSelect → Byte
  | .rising => 0#8
  | .falling => 1#8
  | .both => 2#8

def gateCode : Gate → Byte
  | .closed => 0#8
  | .opened => 1#8

def deliveryCode : Delivery → Byte
  | .all => 0#8
  | .one => 1#8

def entryStatusCode : EntryStatus → Byte
  | .idle => 0#8
  | .inService => 1#8
  | .held => 2#8

def cancelReasonCode : CancelReason → Byte
  | .cutoff => 1#8
  | .revoked => 2#8
  | .released => 3#8
  | .detachedTarget => 4#8

def actionKindCode : ActionKind → Byte
  | .set => 0#8
  | .clear => 1#8
  | .toggle => 2#8
  | .pulse => 3#8
  | .gateOpen => 4#8
  | .mark => 5#8

def notifyCode : Notify → Nat
  | .never => 0
  | .each => 1
  | .last => 2

def driveCode : Drive → Byte
  | .float => 0#8
  | .disabled => 1#8
  | .driven => 2#8
  | .cut => 3#8

def polarityCode : Polarity → Byte
  | .activeHigh => 0#8
  | .activeLow => 1#8

def electricalCode : Electrical → Byte
  | .low => 0#8
  | .high => 1#8
  | .float => 2#8

def pairModeCode : PairMode → Byte
  | .independent => 0#8
  | .complement => 1#8

def pairStateCode : Option PairState → Byte
  | none => 0#8
  | some .aActive => 1#8
  | some .bActive => 2#8
  | some .deadToA => 3#8
  | some .deadToB => 4#8

def cutStateCode : CutState → Byte
  | .armed => 0#8
  | .tripped => 1#8

/-- 0..15 E0..E15, 0x10 PIN, 0x11..0x14 FORCE by M0..M3. -/
def cutSourceCode : CutSource → Byte
  | .entry n => BitVec.ofNat 8 n.val
  | .pin => 0x10#8
  | .force m => BitVec.ofNat 8 (0x11 + m.val)

def statusCode : Status → Byte
  | .ok => 0x00#8
  | .pending => 0x01#8
  | .nothing => 0x02#8
  | .badFrame => 0x10#8
  | .badCmd => 0x11#8
  | .badArg => 0x12#8
  | .badState => 0x13#8
  | .notAttached => 0x14#8
  | .denied => 0x15#8
  | .notOwner => 0x16#8
  | .taken => 0x17#8
  | .full => 0x18#8
  | .late => 0x19#8
  | .notFound => 0x1A#8
  | .inService => 0x1B#8
  | .inUse => 0x1C#8
  | .cut => 0x1D#8
  | .active => 0x1E#8
  | .once => 0x1F#8
  | .noMatch => 0x20#8

/-! ### Numbers, timestamps, absent values (R171) -/

def nat8 (n : Nat) : Byte := BitVec.ofNat 8 n
def nat16 (n : Nat) : List Byte := bytes16 (BitVec.ofNat 16 n)
def nat24 (n : Nat) : List Byte := bytes24 (BitVec.ofNat 24 n)
def nat32 (n : Nat) : List Byte := bytes32 (BitVec.ofNat 32 n)

/-- The epoch in 1 byte, then the count in 4 (R171). -/
def timestampBytes (t : Timestamp) : List Byte := [t.epoch] ++ bytes32 t.count

/-- A presence byte, then 5 bytes that read as zero when absent (R171). -/
def optionalTimestamp : Option Timestamp → List Byte
  | some t => [1#8] ++ timestampBytes t
  | none => [0#8, 0#8, 0#8, 0#8, 0#8, 0#8]

/-- A master that may be none: 0xFF (R171). -/
def masterByte : Option Master → Byte
  | some m => nat8 m.val
  | none => 0xFF#8

/-- A set in whole bytes, its upper bits 0. -/
def set8 {w : Nat} (x : BitVec w) : Byte := x.setWidth 8
def set16 {w : Nat} (x : BitVec w) : List Byte := bytes16 (x.setWidth 16)
def set24 {w : Nat} (x : BitVec w) : List Byte := bytes24 (x.setWidth 24)
def set32 {w : Nat} (x : BitVec w) : List Byte := bytes32 (x.setWidth 32)

/-- A presence byte, then 3 bytes that read as zero when absent (R182). -/
def stagedPeriodBytes : Option Nat → List Byte
  | some p => [1#8] ++ nat24 p
  | none => [0#8] ++ nat24 0

/-- The trip record in 9 bytes: an empty one reads as first source 0xFF with zeros (R181). -/
def tripBytes : Option Trip → List Byte
  | some t => [cutSourceCode t.first] ++ timestampBytes t.time ++ set24 t.seen
  | none => [0xFF#8, 0#8, 0#8, 0#8, 0#8, 0#8, 0#8, 0#8, 0#8]

/-! ### The notice record (R176) -/

def kindCode : NoticeBody → Byte
  | .edgeEvent _ => 0x01#8
  | .levelEvent => 0x02#8
  | .groupEvent _ _ => 0x03#8
  | .frame => 0x04#8
  | .resync _ => 0x05#8
  | .cutoffChange _ _ => 0x06#8
  | .attachChange _ _ => 0x07#8
  | .actionDone _ => 0x08#8
  | .actionCancelled _ => 0x09#8
  | .lapsed _ => 0x0A#8
  | .overflow _ _ _ => 0x0B#8

def detailBytes : NoticeBody → List Byte
  | .edgeEvent k => if 2 ≤ k then nat16 k else []
  | .levelEvent => []
  | .groupEvent snap n => bytes16 snap ++ [nat8 n.val]
  | .frame => []
  | .resync c => bytes32 c
  | .cutoffChange st trip => [cutStateCode st] ++ tripBytes trip
  | .attachChange m a => [nat8 m.val, attachmentCode a]
  | .actionDone k => bytes16 k
  | .actionCancelled r => [cancelReasonCode r]
  | .lapsed set => [set8 set]
  | .overflow n first sources => nat16 n ++ timestampBytes (first.getD ⟨0, 0⟩) ++ set32 sources

def noticeBytes (n : Notice) : List Byte :=
  [kindCode n.body, nat8 n.source.val, n.tag] ++ timestampBytes n.time ++ [nat8 (detailBytes n.body).length] ++
    detailBytes n.body

/-! ### The check of a request frame (R158) -/

inductive FrameProblem where
  | cutShort
  | badLength
  | badCrc
deriving DecidableEq, Repr

/-- R158, in its order, over the complete bytes of the period. -/
def frameProblem (bytes : List Byte) : Option FrameProblem :=
  let n := (byteAt bytes 1).toNat
  if bytes.length < 3 then some .cutShort
  else if Config.maxPayload < n then some .badLength
  else if bytes.length < n + 3 then some .cutShort
  else if n + 3 < bytes.length then some .badLength
  else if crc8 (bytes.take (n + 2)) = byteAt bytes (n + 2) then none
  else some .badCrc

/-- The payload of a frame that passes R158 (R173). -/
def framePayload (bytes : List Byte) : List Byte := (bytes.drop 2).take (byteAt bytes 1).toNat

/-! ### The reply of a response read (R161, R162, R174) -/

/-- Status, echoed code, flags, length, payload, CRC-8, with the ATTN flag as it stands at the read. -/
def replyBytes (attn : Bool) (r : Response) : List Byte :=
  let covered :=
    [statusCode r.status, r.code, flagsByte attn r.collided r.replaced r.restricted, nat8 r.payload.length] ++ r.payload
  covered ++ [crc8 covered]

/-- A reply built for a read and not placed in the slot: PENDING or NONE, with no payload (R161). -/
def bareReply (st : Status) (code : Byte) : Response := ⟨st, code, false, false, false, []⟩

/-- What SDO shifts out in a read that clocks so many bytes after the 0x80: 0x00 while the 0x80 arrives, then the reply, then
0x00 (R157, R161). -/
def shiftedOut (reply : List Byte) (clocked : Nat) : List Byte :=
  0#8 :: (reply ++ List.replicate clocked 0#8).take clocked

end Sys2Proof.Machine
end

