-- ==== Sys2Proof/Machine/Notices.lean ====
section
/-! DEFINITION. Taking a notice into a queue: appended, merged into the overflow record, or discarded (R77, R78). -/
namespace Sys2Proof.Machine

/-- The member of the lost-source set a notice stands for: its entry, or the ACTION indicator (R78). -/
def Notice.lostSource (n : Notice) : Nat :=
  match n.body with
  | .actionDone _ => 24
  | .actionCancelled _ => 24
  | .overflow _ _ _ => 24
  | .edgeEvent _ | .levelEvent | .groupEvent _ _ | .frame | .resync _ | .cutoffChange _ _ | .attachChange _ _
  | .lapsed _ => n.source.val

/-- R78. -/
def NoticeQueue.merge (q : NoticeQueue) (n : Notice) : NoticeQueue :=
  { q with
    firstLoss := if q.losses = 0 then some n.time else q.firstLoss
    losses := min (q.losses + 1) Config.lossCeiling
    lostSources := q.lostSources ||| single n.lostSource }

/-- R77, for an ATTACHED master. -/
def NoticeQueue.takeIn (q : NoticeQueue) (n : Notice) : NoticeQueue :=
  if q.notices.length < Config.queueCapacity then { q with notices := q.notices ++ [n] } else q.merge n

/-- R77: a notice handed to master m's queue; discarded unless m is ATTACHED. -/
def State.hand (s : State) (m : Master) (n : Notice) : State :=
  if s.attachment m = .attached then s.setQueue m ((s.queue m).takeIn n) else s

/-- One notice to each master of a set. The notices go to different queues and reach different state (R41). -/
def State.handEach (s : State) (masters : MasterSet) (n : Notice) : State :=
  (List.finRange 4).foldl (fun t m => if masters.getLsbD m.val then t.hand m n else t) s

/-- The queue and its overflow record emptied (R85, R87). -/
def NoticeQueue.emptied (q : NoticeQueue) : NoticeQueue :=
  { q with notices := [], losses := 0, firstLoss := none, lostSources := 0 }

end Sys2Proof.Machine
end

