-- ==== Sys2Proof/Machine/Steering.lean ====
section
/-! DEFINITION. The Steering Table's own operations: choosing masters (R38 to R40), edge delivery (R42), delivery attempts
(R44 to R46), emptying and resampling (R60), and deadline expiry (R64, R65). -/
namespace Sys2Proof.Machine

/-- R39: every deliverable master. -/
def State.chooseAll (s : State) (e : EntryIx) : MasterSet := setOf fun m => s.deliverable e m

/-- R40: the first deliverable master from the rotation pointer on, moving from 3 back to 0. -/
def State.chooseOne (s : State) (e : EntryIx) : Option Master :=
  let p := (s.entry e).rotation
  [p, p + 1, p + 2, p + 3].find? fun m => s.deliverable e m

/-- The chosen masters and the rotation pointer after the choice (R39, R40). -/
def State.choose (s : State) (e : EntryIx) : MasterSet × Master :=
  match (s.entry e).delivery with
  | .all => (s.chooseAll e, (s.entry e).rotation)
  | .one =>
    match s.chooseOne e with
    | some m => (single m.val, m + 1)
    | none => (0#4, (s.entry e).rotation)

/-- The entry's index as a notice's source (R41). -/
def entrySource (e : EntryIx) : Fin 32 := ⟨e.val, by omega⟩

/-- The notice an entry builds (R41). -/
def State.entryNotice (s : State) (e : EntryIx) (t : Timestamp) (body : NoticeBody) : Notice :=
  ⟨body, entrySource e, (s.entry e).tag, t⟩

/-- R42: an edge entry takes an edge event. -/
def State.edgeEvent (s : State) (e : EntryIx) (t : Timestamp) (body : NoticeBody) : State :=
  if (s.entry e).masked then s
  else
    let c := s.choose e
    if c.1 = 0#4 then s
    else (s.setEntry e { s.entry e with rotation := c.2 }).handEach c.1 (s.entryNotice e t body)

/-- R44: a delivery attempt of a level entry. -/
def State.attempt (s : State) (e : EntryIx) (t : Timestamp) : State :=
  let x := s.entry e
  let c := s.choose e
  if c.1 = 0#4 then s.setEntry e { x with awaiting := 0#4, timer := none, status := .held }
  else
    (s.setEntry e
        { x with
          awaiting := c.1
          rotation := c.2
          timer := if x.deadline.toNat = 0 then none else some ⟨x.deadline.toNat, false⟩
          status := .inService }).handEach c.1 (s.entryNotice e t .levelEvent)

/-- R45, R46: an assertion of the entry's line. -/
def State.assertion (s : State) (e : EntryIx) (t : Timestamp) : State :=
  if !(s.entry e).masked && (s.entry e).awaiting == 0#4 then s.attempt e t else s

/-- R46: a deassertion of the entry's line. -/
def State.deassertion (s : State) (e : EntryIx) : State :=
  if (s.entry e).status = .held then s.setEntry e { s.entry e with status := .idle } else s

/-- R60: the awaiting set has become empty; the timer stops and the entry resamples its line. -/
def State.resample (s : State) (e : EntryIx) (t : Timestamp) : State :=
  let s₁ := s.setEntry e { s.entry e with awaiting := 0#4, timer := none, status := .idle }
  if !(s.entry e).masked && s.entryAsserted e then s₁.attempt e t else s₁

/-- R58, R71: master m leaves an awaiting set that holds it. -/
def State.leaveAwaiting (s : State) (m : Master) (t : Timestamp) (e : EntryIx) : State :=
  let rest := without (s.entry e).awaiting m.val
  if rest = 0#4 then s.resample e t else s.setEntry e { s.entry e with awaiting := rest }

/-- The entries whose awaiting set holds a master and that a condition selects. -/
def State.awaitingEntries (s : State) (m : Master) (p : Entry → Bool) : List EntryIx :=
  (List.finRange 24).filter fun e => (s.entry e).awaiting.getLsbD m.val && p (s.entry e)

/-- R69, R70: the HELD entries whose destination set contains a master. -/
def State.heldFor (s : State) (m : Master) : List EntryIx :=
  (List.finRange 24).filter fun e => (s.entry e).status == .held && (s.entry e).destinations.getLsbD m.val

/-- R65: the LAPSED notice to the supervisor, if there is one. -/
def State.reportLapse (s : State) (e : EntryIx) (lapsed : MasterSet) (t : Timestamp) : State :=
  match s.supervisor with
  | some m => s.hand m (s.entryNotice e t (.lapsed lapsed))
  | none => s

/-- R64: expiry. The LAPSED notice is handed on before the resample makes its attempt. -/
def State.expire (s : State) (e : EntryIx) : State :=
  (s.reportLapse e (s.entry e).awaiting s.now).resample e s.now

/-- The entry's deadline timer has been ended by a service period event and its expiry is still to be taken. -/
def Entry.expiring (x : Entry) : Bool :=
  match x.timer with
  | some t => t.expiring
  | none => false

/-- R62: what a service period event does to a deadline timer: 2 or more decreases, 1 is to expire. -/
def DeadlineTimer.servicePeriod (t : DeadlineTimer) : DeadlineTimer :=
  if 2 ≤ t.remaining then { t with remaining := t.remaining - 1 } else { t with expiring := true }

end Sys2Proof.Machine
end

