-- ==== Sys2Proof/Machine/Outputs.lean ====
section
/-! DEFINITION. The operations of the Output Lines: acting on a line or on a COMPLEMENT pair as a whole (R123), the changes of
drive state (R117, R118, R120, R121, R129, R130, R131), level requests (R125) and the complementary pair with its dead time
(R126 to R128). -/
namespace Sys2Proof.Machine

/-- Two lines that act as one: the same line, or the lines of one COMPLEMENT pair (R123). -/
def State.together (s : State) (l k : OutLine) : Bool := s.lead k == s.lead l

/-- A change made to every line a condition selects, in one step. -/
def State.changeLines (s : State) (on : OutLine → Bool) (f : OutputLine → OutputLine) : State :=
  { s with lines := Vector.ofFn fun l => if on l then f (s.line l) else s.line l }

/-- The pair state becomes absent and any dead-time record is discarded (R121, R129, R131). -/
def Pair.cleared (p : Pair) : Pair := { p with state := none, record := none }

/-- The pair state discarded for every COMPLEMENT pair whose A line a condition selects. -/
def State.clearPairs (s : State) (on : OutLine → Bool) : State :=
  { s with
    pairs := Vector.ofFn fun p => if s.complement p && on (lineA p) then (s.pair p).cleared else s.pair p }

/-- R117: DISABLED with the caller as owner. -/
def OutputLine.claimed (m : Master) (x : OutputLine) : OutputLine :=
  { x with owner := some m, drive := .disabled, active := false }

/-- R118, R131: FLOAT with no owner. -/
def OutputLine.released (x : OutputLine) : OutputLine := { x with owner := none, drive := .float, active := false }

/-- R121, R130: DISABLED with the same owner. -/
def OutputLine.stopped (x : OutputLine) : OutputLine := { x with drive := .disabled, active := false }

/-- R129: CUT with the same owner. -/
def OutputLine.cutOff (x : OutputLine) : OutputLine := { x with drive := .cut, active := false }

/-- A pair moves toward one side: the dead time starts in full, or with a dead time of 0 the side is active at once (R120, R127).
The logical levels are those R126 fixes. -/
def State.handOver (s : State) (p : PairIx) (side : Side) : State :=
  let x := s.pair p
  let ps : PairState :=
    match side, x.deadTime with
    | .a, 0 => .aActive
    | .a, _ + 1 => .deadToA
    | .b, 0 => .bActive
    | .b, _ + 1 => .deadToB
  let s₁ := s.setPair p
    { x with
      state := some ps
      record := if x.deadTime = 0 then none else some ⟨side, x.deadTime, false⟩ }
  (s₁.setLine (lineA p) { s.line (lineA p) with active := ps.logical .a }).setLine (lineB p)
    { s.line (lineB p) with active := ps.logical .b }

/-- R120: DISABLED to DRIVEN with the logical level inactive; a COMPLEMENT pair as a whole, toward B (log 22). -/
def State.enableLine (s : State) (l : OutLine) : State :=
  let s₁ := s.changeLines (s.together l) fun x => { x with drive := .driven, active := false }
  if s.complement (pairOf l) then s₁.handOver (pairOf l) .b else s₁

/-- R121: DRIVEN to DISABLED; a COMPLEMENT pair as a whole. -/
def State.disableLine (s : State) (l : OutLine) : State :=
  (s.clearPairs (s.together l)).changeLines (s.together l) OutputLine.stopped

/-! ### Level requests (R125 to R127) -/

inductive LevelRequest where
  | active
  | inactive
  | toggle
deriving DecidableEq, Repr

/-- The level a request asks for, given the logical level it is judged by. -/
def LevelRequest.wanted : LevelRequest → Bool → Bool
  | .active, _ => true
  | .inactive, _ => false
  | .toggle, now => !now

/-- R127: a request concerning line A of a DRIVEN COMPLEMENT pair. -/
def State.requestPair (s : State) (p : PairIx) (wantA : Bool) : State :=
  match (s.pair p).state, wantA with
  | some .aActive, false => s.handOver p .b
  | some .deadToA, false => s.handOver p .b
  | some .bActive, true => s.handOver p .a
  | some .deadToB, true => s.handOver p .a
  | _, _ => s

/-- R125. -/
def State.requestLevel (s : State) (l : OutLine) (q : LevelRequest) : State :=
  if (s.line l).drive = .driven then
    match (s.pair (pairOf l)).mode with
    | .independent => s.setLine l { s.line l with active := q.wanted (s.line l).active }
    | .complement => s.requestPair (pairOf l) (q.wanted (s.line (lineA (pairOf l))).active)
  else s

/-! ### Dead time (R128) -/

/-- What an announced tick does to a dead-time record: 2 or more decreases, 1 is to expire. -/
def DeadTimeRecord.tick (r : DeadTimeRecord) : DeadTimeRecord :=
  if 2 ≤ r.remaining then { r with remaining := r.remaining - 1 } else { r with expiring := true }

def State.tickDeadTimes (s : State) : State :=
  { s with
    pairs := Vector.ofFn fun p => { s.pair p with record := (s.pair p).record.map DeadTimeRecord.tick } }

/-- The pair's dead time has been ended by a tick and its expiry is still to be taken. -/
def Pair.expiring (p : Pair) : Bool :=
  match p.record with
  | some r => r.expiring
  | none => false

/-- The dead time has run: the line to activate goes active and the record becomes absent. -/
def Pair.expire (p : Pair) : Pair :=
  match p.record with
  | some ⟨.a, _, _⟩ => { p with state := some .aActive, record := none }
  | some ⟨.b, _, _⟩ => { p with state := some .bActive, record := none }
  | none => p

/-- The pair's dead time is to expire: only while RUNNING, since a halt leaves every record its ticks. -/
def State.expiryDue (s : State) (p : PairIx) : Bool := s.timebase.run == .running && (s.pair p).expiring

def State.expireDeadTime (s : State) (p : PairIx) : State :=
  if s.expiryDue p then s.setPair p (s.pair p).expire else s

/-! ### Forced release (R131) -/

/-- A set of lines with the other line of each COMPLEMENT pair it meets (R123). -/
def State.wholePairs (s : State) (lines : LineSet) : LineSet :=
  setOf fun l =>
    lines.getLsbD l.val ||
      (s.complement (pairOf l) && (lines.getLsbD (lineA (pairOf l)).val || lines.getLsbD (lineB (pairOf l)).val))

/-- The lines a master owns. -/
def State.ownedLines (s : State) (m : Master) : LineSet := setOf fun l => (s.line l).owner == some m

/-- Steps 2 to 4 of R131 for a set of lines that holds COMPLEMENT pairs whole. -/
def State.releaseLines (s : State) (lines : LineSet) : State :=
  (s.clearPairs fun l => lines.getLsbD l.val).changeLines (fun l => lines.getLsbD l.val) OutputLine.released

/-- At least one line of a set is CUT (R131, step 5). -/
def State.anyCut (s : State) (lines : LineSet) : Bool :=
  (List.finRange 8).any fun l => lines.getLsbD l.val && (s.line l).drive == .cut

end Sys2Proof.Machine
end

