-- ==== Sys2Proof/Machine/Schedule.lean ====
section
/-! DEFINITION. The operations of the Action Schedule: removing records (R109 to R112), firing and completing (R94 to R98),
taking a staged update (R100), rebasing (R107), and taking all that an announced count has left to be taken (log 3). -/
namespace Sys2Proof.Machine

/-- A slot as a notice's source (R76). -/
def slotSource (n : Slot) : Fin 32 := n

/-- R97: the ACTION_DONE notice of a record whose counts have been updated. -/
def actionDone (n : Slot) (r : ActionRecord) (t : Timestamp) : Notice := ⟨.actionDone r.firings, slotSource n, r.tag, t⟩

/-- R109: the ACTION_CANCELLED notice. -/
def actionCancelled (n : Slot) (r : ActionRecord) (reason : CancelReason) (t : Timestamp) : Notice :=
  ⟨.actionCancelled reason, slotSource n, r.tag, t⟩

/-! ### Removal by the part -/

/-- The record of a slot is one that a condition selects. -/
def State.selects (s : State) (p : ActionRecord → Bool) (n : Slot) : Bool :=
  match s.action n with
  | some r => p r
  | none => false

/-- The number of records a condition selects. -/
def State.countRecords (s : State) (p : ActionRecord → Bool) : Nat := countOf 32 (s.selects p)

/-- R112: every record a condition selects leaves its slot, without a notice. -/
def State.dropRecords (s : State) (p : ActionRecord → Bool) : State :=
  { s with
    actions := Vector.ofFn fun n =>
      match s.action n with
      | some r => if p r then none else some r
      | none => none }

/-- R109: the notices of the records a condition selects, to their owners' queues, in ascending slot order. -/
def State.notifyCancelled (s : State) (p : ActionRecord → Bool) (reason : CancelReason) (t : Timestamp) : State :=
  (List.finRange 32).foldl
    (fun u n =>
      match s.action n with
      | some r => if p r then u.hand r.owner (actionCancelled n r reason t) else u
      | none => u)
    s

/-- R109: a removal by the part, with notices. All its ACTION_CANCELLED notices are one hand-off: that no notice of another block
or entry falls between them is the model's choice (R79; log 26). -/
def State.cancelRecords (s : State) (p : ActionRecord → Bool) (reason : CancelReason) (t : Timestamp) : State :=
  (s.notifyCancelled p reason t).dropRecords p

/-! ### Firing -/

/-- R100: the staged update taken at a re-arm. -/
def ActionRecord.takeStaged (r : ActionRecord) : ActionRecord :=
  match r.staged with
  | none => r
  | some u =>
    { r with
      widthA := u.widthA
      widthB := u.widthB
      period := u.period
      nextWidth := if u.widthB.isNone then .a else r.nextWidth
      staged := none }

/-- R97, step 3: the re-arm, one period after the previous due time. -/
def ActionRecord.rearm (r : ActionRecord) : ActionRecord :=
  let u := r.takeStaged
  { u with due := r.due + BitVec.ofNat 32 u.period, phase := .armed }

/-- R97, step 1. -/
def ActionRecord.counted (r : ActionRecord) : ActionRecord :=
  { r with firings := r.firings + 1, remaining := r.remaining.map fun k => k - 1 }

/-- R97, step 3: the record is repeating and has firings left. -/
def ActionRecord.repeats (r : ActionRecord) : Bool := r.period != 0 && r.remaining != some 0

/-- R97: the completion of a firing of the record of slot n. -/
def State.complete (s : State) (n : Slot) (r : ActionRecord) (t : Timestamp) : State :=
  let c := r.counted
  let s₁ := if r.notify = .each then s.hand r.owner (actionDone n c t) else s
  if c.repeats then s₁.setAction n (some c.rearm)
  else
    let s₂ := s₁.setAction n none
    if r.notify = .last then s₂.hand r.owner (actionDone n c t) else s₂

/-- A level request to a record's target line (R95, R96). -/
def State.requestTarget (s : State) (r : ActionRecord) (q : LevelRequest) : State :=
  match r.target with
  | .output l => s.requestLevel l q
  | .capture _ => s
  | .absent => s

/-- R24: an opening of a capture line's gate. -/
def CaptureLine.openGate (c : CaptureLine) : CaptureLine := { c with gate := .opened }

def State.openTarget (s : State) (r : ActionRecord) : State :=
  match r.target with
  | .capture n => s.setCapture n (s.capture n).openGate
  | .output _ => s
  | .absent => s

/-- R96: the current width of a PULSE. -/
def ActionRecord.currentWidth (r : ActionRecord) : Nat :=
  match r.nextWidth with
  | .a => r.widthA.getD 0
  | .b => r.widthB.getD 0

/-- R95, R96: the firing of the ARMED record r of slot n, with the timestamp of the announced count. -/
def State.fire (s : State) (n : Slot) (r : ActionRecord) (t : Timestamp) : State :=
  match r.kind with
  | .set => (s.requestTarget r .active).complete n r t
  | .clear => (s.requestTarget r .inactive).complete n r t
  | .toggle => (s.requestTarget r .toggle).complete n r t
  | .gateOpen => (s.openTarget r).complete n r t
  | .mark => s.complete n r t
  | .pulse =>
    (s.requestTarget r .active).setAction n
      (some { r with phase := .active (r.due + BitVec.ofNat 32 r.currentWidth) })

/-- R96: the width the next pulse uses. -/
def ActionRecord.otherWidth (r : ActionRecord) : NextWidth :=
  if r.widthB.isNone then r.nextWidth
  else
    match r.nextWidth with
    | .a => .b
    | .b => .a

/-- R96: the end of the ACTIVE pulse r of slot n. -/
def State.endPulse (s : State) (n : Slot) (r : ActionRecord) (t : Timestamp) : State :=
  (s.requestTarget r .inactive).complete n { r with phase := .armed, nextWidth := r.otherWidth } t

/-! ### What an announced count has left to be taken (log 3) -/

/-- The record of slot n is an ACTIVE pulse that has reached its end time; while HALTED nothing ends (R94, R106). -/
def State.endDue (s : State) (n : Slot) : Bool :=
  s.timebase.run == .running && s.selects (fun r => r.isActive && r.nextTime == s.timebase.count) n

/-- The record of slot n is ARMED and has reached its due time; while HALTED nothing fires (R94, R106). -/
def State.fireDue (s : State) (n : Slot) : Bool :=
  s.timebase.run == .running && s.selects (fun r => !r.isActive && r.nextTime == s.timebase.count) n

/-- R98: the ends first, then the firings, each in ascending slot order. -/
def State.nextEnd (s : State) : Option Slot := (List.finRange 32).find? s.endDue

def State.nextFire (s : State) : Option Slot :=
  if s.nextEnd.isNone then (List.finRange 32).find? s.fireDue else none

/-- The end of slot n's pulse, if it is what comes next. -/
def State.takeEnd (s : State) (n : Slot) : State :=
  if s.nextEnd = some n then
    match s.action n with
    | some r => s.endPulse n r s.timebase.announced
    | none => s
  else s

/-- The firing of slot n's record, if it is what comes next. -/
def State.takeFire (s : State) (n : Slot) : State :=
  if s.nextFire = some n then
    match s.action n with
    | some r => s.fire n r s.timebase.announced
    | none => s
  else s

/-- The last announced count has left nothing to be taken: no dead time has run, and no record has reached its next event
time. -/
def State.settled (s : State) : Bool :=
  !((List.finRange 4).any s.expiryDue) && !((List.finRange 32).any fun n => s.endDue n || s.fireDue n)

/-- All that the last announced count has left: ends, then firings (R98). That the dead times that have run go first is the model's
choice; R128 allows either order (log 3). -/
def State.takeAll (s : State) : State :=
  let s₁ := (List.finRange 4).foldl State.expireDeadTime s
  let s₂ := (List.finRange 32).foldl State.takeEnd s₁
  (List.finRange 32).foldl State.takeFire s₂

def State.settle (s : State) : State := if s.settled then s else s.takeAll

/-! ### Rebasing (R107) -/

def ActionRecord.shift (r : ActionRecord) (d : Count) : ActionRecord :=
  { r with
    due := r.due + d
    phase :=
      match r.phase with
      | .armed => .armed
      | .active stop => .active (stop + d) }

def State.rebase (s : State) (before after : Count) : State :=
  { s with
    actions := Vector.ofFn fun n =>
      match s.action n with
      | some r => some (r.shift (after - before))
      | none => none }

end Sys2Proof.Machine
end

