-- ==== Sys2Proof/Machine/CutoffUnit.lean ====
section
/-! DEFINITION. The Cutoff Unit's own operations: trip (R137), a source seen while TRIPPED (R138), the re-arm check (R139),
CUTOFF change events (R140), continuing and momentary sources (R134 to R136). -/
namespace Sys2Proof.Machine

/-- The bit of a source in the sources-seen set; a continuing source has the same bit in the asserted-source set (R175). -/
def CutSource.bit : CutSource → Nat
  | .entry n => n.val
  | .pin => 16
  | .force m => 17 + m.val

/-- A trip takes the line: cut-enabled and DISABLED or DRIVEN, a COMPLEMENT pair as its A line (R137; log 18). -/
def State.cuts (s : State) (l : OutLine) : Bool :=
  let a := s.line (s.lead l)
  a.cutEnable && (a.drive == .disabled || a.drive == .driven)

/-- The records that target a line of a trip (R110). -/
def State.onCutLine (s : State) (r : ActionRecord) : Bool :=
  match r.target with
  | .output l => s.cuts l
  | .capture _ => false
  | .absent => false

/-- R140: E22 fires. -/
def State.cutoffChange (s : State) (st : CutState) (trip : Option Trip) (t : Timestamp) : State :=
  s.edgeEvent cutoffEntry t (.cutoffChange st trip)

/-- The lines a trip takes, and the pair state and dead-time record of their COMPLEMENT pairs (R129; R137, step 3). -/
def State.cutLines (s : State) : State := (s.clearPairs s.cuts).changeLines s.cuts OutputLine.cutOff

/-- R137. The removals and the E22 delivery carry no order. That all the removals come before E22 or all after it, and that nothing
else falls among them, is the model's choice (R79; log 26). -/
def State.trip (s : State) (src : CutSource) (t : Timestamp) : State :=
  let record : Trip := ⟨src, t, single src.bit⟩
  let s₁ := s.cutLines.setCutoff { s.cutoff with state := .tripped, trip := some record }
  let gone := s.onCutLine
  s₁.inAnyOrder
    ((if s.countRecords gone = 0 then [] else [fun u => u.cancelRecords gone .cutoff t]) ++
      [fun u => u.cutoffChange .tripped (some record) t])

/-- R138. -/
def Cutoff.see (c : Cutoff) (src : CutSource) : Cutoff :=
  { c with trip := c.trip.map fun r => { r with seen := r.seen ||| single src.bit } }

/-- A source asserts (R137, R138). -/
def State.sourceAsserts (s : State) (src : CutSource) (t : Timestamp) : State :=
  match s.cutoff.state with
  | .armed => s.trip src t
  | .tripped => s.setCutoff (s.cutoff.see src)

/-- The condition of a re-arm: TRIPPED, no line CUT, and no source asserted (R139). -/
def State.mayRearm (s : State) : Bool :=
  s.cutoff.state == .tripped && s.cutoff.asserted == 0#17 && !(s.anyCut (BitVec.allOnes 8))

/-- R139: the re-arm check. -/
def State.rearmCheck (s : State) (t : Timestamp) : State :=
  if s.mayRearm then
    (s.setCutoff { s.cutoff with state := .armed, trip := none }).cutoffChange .armed s.cutoff.trip t
  else s

/-- A momentary source asserts, then deasserts in the same step (R135, R136, R139). -/
def State.momentary (s : State) (src : CutSource) (t : Timestamp) : State := (s.sourceAsserts src t).rearmCheck t

/-- A continuing source joins the asserted-source set and asserts (R134, R135). -/
def State.joinSource (s : State) (src : CutSource) (t : Timestamp) : State :=
  (s.setCutoff { s.cutoff with asserted := s.cutoff.asserted ||| single src.bit }).sourceAsserts src t

/-- A continuing source leaves the asserted-source set and deasserts (R134, R135, R139). -/
def State.leaveSource (s : State) (src : CutSource) (t : Timestamp) : State :=
  (s.setCutoff { s.cutoff with asserted := without s.cutoff.asserted src.bit }).rearmCheck t

/-- R134: the pin's asserted condition compared before and after a change. -/
def State.pinChanged (s : State) (before : Bool) (t : Timestamp) : State :=
  match before, s.cutoff.pinAsserted with
  | false, true => s.joinSource .pin t
  | true, false => s.leaveSource .pin t
  | false, false => s
  | true, true => s

end Sys2Proof.Machine
end

