-- ==== Sys2Proof/Machine/CaptureUnit.lean ====
section
/-! DEFINITION. The operations of the Capture Lines and the Group Monitor: the filter (R18 to R20), the qualifier, the gate and
the prescaler (R22 to R25), routing (R26), the last-capture record (R27) and group events (R32). -/
namespace Sys2Proof.Machine

/-! ### The filter (R17, R19) -/

/-- The sample completes qualification: it differs from the qualified level and the run count has reached the filter length. The
first sample since reset is loaded instead (R17). -/
def Filter.qualifies (f : Filter) (x : Level) : Bool := f.loaded && x != f.level && f.length ≤ f.run

/-- One sample: the divider starts again at 0 (R18) and the level is loaded (R17) or compared (R19). -/
def Filter.take (f : Filter) (x : Level) : Filter :=
  let g := { f with divider := 0, sample := x }
  if !f.loaded then { g with level := x, run := 0, loaded := true }
  else if x = f.level then { g with run := 0 }
  else if f.length ≤ f.run then { g with level := x, run := 0 }
  else { g with run := f.run + 1 }

/-! ### From a qualified change to a capture event -/

/-- A capture event of a line (R23, R25). -/
inductive CaptureEvent where
  | edge (edges : Nat)
  | assertion
  | deassertion
deriving DecidableEq, Repr

/-- R22: a change to the new level agrees with the edge select. -/
def EdgeSelect.matching : EdgeSelect → Level → Bool
  | .rising, .high => true
  | .rising, .low => false
  | .falling, .high => false
  | .falling, .low => true
  | .both, .high => true
  | .both, .low => true

/-- An assertion if the line is now asserted, a deassertion if it is not (R25). -/
def CaptureLine.levelEvent (c : CaptureLine) : CaptureEvent := if c.asserted then .assertion else .deassertion

/-- R23, R24: an edge admitted to the prescaler; the event closes an enabled gate. -/
def CaptureLine.countEdge (c : CaptureLine) : CaptureLine × Option CaptureEvent :=
  if c.prescale ≤ c.prescalerCount + 1 then
    ({ c with prescalerCount := 0, gate := if c.gateEnable then .closed else c.gate }, some (.edge (c.prescalerCount + 1)))
  else ({ c with prescalerCount := c.prescalerCount + 1 }, none)

/-- What the qualifier, the gate and the prescaler make of a qualified change to the level the line now has (R22 to R25). -/
def CaptureLine.qualify (c : CaptureLine) : CaptureLine × Option CaptureEvent :=
  match c.mode with
  | .level => (c, some c.levelEvent)
  | .edge =>
    if !c.edgeSelect.matching c.filter.level then (c, none)
    else if c.gateEnable && c.gate == .closed then (c, none)
    else c.countEdge

/-- R27: the last-capture record takes an event. -/
def CaptureLine.stamp (c : CaptureLine) (t : Timestamp) : CaptureLine :=
  { c with lastTime := some t, lastLevel := c.filter.level, eventCount := c.eventCount + 1 }

/-- R26: the event at the line's entry. -/
def State.eventAtEntry (s : State) (n : CapLine) (t : Timestamp) : CaptureEvent → State
  | .edge k => s.edgeEvent (capEntry n) t (.edgeEvent k)
  | .assertion => s.assertion (capEntry n) t
  | .deassertion => s.deassertion (capEntry n)

/-- R26, R135: the event at the Cutoff Unit. -/
def State.eventAtCutoff (s : State) (n : CapLine) (t : Timestamp) : CaptureEvent → State
  | .edge _ => s.momentary (.entry n) t
  | .assertion => s.joinSource (.entry n) t
  | .deassertion => s.leaveSource (.entry n) t

/-- R26: the hand-offs of a capture event; the cutoff-source flag is read at the moment the event is produced. All that the event
does at the Cutoff Unit, a trip with its removals and E22 among it, is one hand-off (log 26). -/
def State.eventHandOffs (s : State) (n : CapLine) (t : Timestamp) (ev : CaptureEvent) : List (State → State) :=
  [fun u => u.eventAtEntry n t ev] ++
    (if (s.entry (capEntry n)).cutoffSource then [fun u => u.eventAtCutoff n t ev] else [])

/-- R32: one group event for each group whose mask contains the line, with the snapshot just after the change. They reach
different entries, so they carry no order (R79). -/
def State.groupHandOffs (s : State) (n : CapLine) (t : Timestamp) : List (State → State) :=
  ((List.finRange 4).filter fun g => (s.group g).getLsbD n.val).map fun g u =>
    u.edgeEvent (groupEntry g) t (.groupEvent s.snapshot n)

/-- R21: what a qualified change of line n, whose qualified level is already the new one, hands on. -/
def State.qualifiedChange (s : State) (n : CapLine) (t : Timestamp) : State :=
  match (s.capture n).qualify with
  | (c, none) => (s.setCapture n c).inAnyOrder (s.groupHandOffs n t)
  | (c, some ev) => (s.setCapture n (c.stamp t)).inAnyOrder (s.groupHandOffs n t ++ s.eventHandOffs n t ev)

/-- R37 at the first sample: the loaded level raises no event, but the entry's status follows its line's asserted condition, so
a HELD entry whose line is no longer asserted becomes IDLE (log 12). -/
def State.statusAfterLoad (s : State) (n : CapLine) : State :=
  if (s.capture n).asserted then s else s.deassertion (capEntry n)

/-- One sample of line n's pin (R17 to R19). A change that qualifies takes its timestamp and hands its notices to the queues in this
one step. That none of them reaches a queue after the RESYNC notice of a later resync, which R21 allows, is the model's choice
(log 27). -/
def State.sampleCapture (s : State) (n : CapLine) (x : Level) : State :=
  let c := s.capture n
  let s₁ := { s.setCapture n { c with filter := c.filter.take x } with capPins := s.capPins.set n x }
  if c.filter.qualifies x then s₁.qualifiedChange n s.now
  else if c.filter.loaded then s₁
  else s₁.statusAfterLoad n

/-- One sample of the CUTOFF pin (R133, R134): only a qualified change is compared. Its timestamp and the notices of E22 are of this
one step (log 27). -/
def State.sampleCutoff (s : State) (x : Level) : State :=
  let c := s.cutoff
  let s₁ := { s.setCutoff { c with filter := c.filter.take x } with cutoffPin := x }
  if c.filter.qualifies x then s₁.pinChanged c.pinAsserted s.now else s₁

end Sys2Proof.Machine
end

