-- ==== Sys2Proof/Machine/TimebaseUnit.lean ====
section
/-! DEFINITION. The Timebase's own operations: ticks and frames (R2 to R4), the values it supplies (R5), service periods (R6,
R62), the SYNC input (R12) and resync (R13). -/
namespace Sys2Proof.Machine

/-! ### Ticks (R2 to R4) -/

/-- Framing is on while the frame period is non-zero (1.1). -/
def Timebase.framing (t : Timebase) : Bool := t.framePeriod != 0

/-- The tick takes the frame phase to the frame period (R4). -/
def Timebase.wraps (t : Timebase) : Bool := t.framing && t.phase + 1 == t.framePeriod

/-- R2, R3, R4: the count and the frame phase after a tick; a staged period is taken at a wrap. The new count is announced. -/
def Timebase.advance (t : Timebase) : Timebase :=
  { t with
    divider := 0
    count := t.count + 1
    phase := if t.wraps then 0 else if t.framing then t.phase + 1 else 0
    framePeriod := if t.wraps then t.staged.getD t.framePeriod else t.framePeriod
    staged := if t.wraps then none else t.staged
    announced := ⟨t.epoch, t.count + 1⟩ }

/-- R3, R4, R128: one tick. What the previous announced count has left is taken first (R94; log 3). That the FRAME notice of a wrap
reaches a queue ahead of the notices of the firings and pulse ends at the same count is the model's choice: R79 gives them no
order (log 27). -/
def State.tick (s : State) : State :=
  let s₀ := s.settle
  let s₁ := s₀.setTimebase s₀.timebase.advance
  let s₂ := if s₀.timebase.wraps then s₁.edgeEvent frameEntry s₁.now .frame else s₁
  s₂.tickDeadTimes

/-! ### The values supplied to the Action Schedule (R5) -/

/-- The next frame start. -/
def Timebase.nextFrameStart (t : Timebase) : Count := t.count + BitVec.ofNat 32 t.framePeriod - BitVec.ofNat 32 t.phase

/-- The period of the next frame: the staged one if present. -/
def Timebase.nextPeriod (t : Timebase) : Nat := t.staged.getD t.framePeriod

/-! ### Resync (R13) -/

/-- The Timebase's own part of a resync. -/
def Timebase.reload (t : Timebase) : Timebase :=
  { t with count := t.resyncValue, phase := 0, epoch := t.epoch + 1 }

/-- R13: the reload, the rebase of the Action Schedule (R107), and E21 with the new timestamp and the old count. The last two
reach different state. -/
def State.resync (s : State) : State :=
  let s₁ := (s.setTimebase s.timebase.reload).rebase s.timebase.count s.timebase.resyncValue
  s₁.edgeEvent resyncEntry s₁.now (.resync s.timebase.count)

/-- R12: a sampled change of the SYNC input to a level is a qualifying edge. -/
def SyncMode.qualifies : SyncMode → Level → Bool
  | .off, .low => false
  | .off, .high => false
  | .rising, .low => false
  | .rising, .high => true
  | .falling, .low => true
  | .falling, .high => false

/-- R12: the sample differs from the previous one and the edge qualifies. -/
def Timebase.syncEdge (t : Timebase) (x : Level) : Bool := x != t.syncSample && t.syncMode.qualifies x

/-- R12: one sample of the SYNC input, with the resync it starts. -/
def State.sampleSync (s : State) (x : Level) : State :=
  let s₁ := { s.setTimebase { s.timebase with syncSample := x } with syncPin := x }
  if s.timebase.syncEdge x then s₁.resync else s₁

/-! ### Service periods (R6, R62, R64) -/

/-- The entries whose expiry is still to be taken. -/
def State.expiringEntries (s : State) : List EntryIx := (List.finRange 24).filter fun e => (s.entry e).expiring

/-- Expiries of different entries carry no order among themselves (R64). -/
def State.takeExpiries (s : State) : State := s.inAnyOrder (s.expiringEntries.map fun e u => u.expire e)

/-- R6, R62: a service period event. Expiries the previous one has left are taken first (log 4). -/
def State.servicePeriod (s : State) : State :=
  let s₁ := s.takeExpiries
  { s₁.setTimebase { s₁.timebase with serviceDivider := 0 } with
    entries := Vector.ofFn fun e =>
      { s₁.entry e with timer := (s₁.entry e).timer.map DeadlineTimer.servicePeriod } }

end Sys2Proof.Machine
end

