-- ==== Sys2Proof/Machine/ActionCommands.lean ====
section
/-! DEFINITION. The Action Schedule family: ACT_SUBMIT, ACT_MODIFY, ACT_CANCEL, ACT_READ, ACT_LIST, and the events ACTION_FIRING
and PULSE_END (06_the_action_schedule.md). -/
namespace Sys2Proof.Machine

/-! ### ACT_SUBMIT (R90 to R93) -/

/-- R91, check 1: the request's enumerations and its target. -/
structure SubmitForm where
  kind      : ActionKind
  target    : Target
  reference : TimingReference
  notify    : Notify
deriving DecidableEq, Repr

def submitFormOf (f : SubmitFields) : Option SubmitForm :=
  match actionKindOf f.kind, referenceOf f.reference, notifyOf f.notify with
  | some k, some r, some n => (targetOf k f.target).map fun t => ⟨k, t, r, n⟩
  | _, _, _ => none

/-- R91, checks 1 (the B line of a COMPLEMENT pair), 2 and 3. -/
def State.targetRefusal (s : State) (m : Master) : Target → Option Status
  | .output l =>
    if s.complementB l then some .badArg
    else if (s.line l).owner ≠ some m then some .notOwner
    else
      match (s.line l).drive with
      | .driven => none
      | .cut => some .cut
      | .float => some .badState
      | .disabled => some .badState
  | .capture n =>
    if !s.programs m (capEntry n) then some .denied
    else if (s.capture n).mode = .edge && (s.capture n).gateEnable then none
    else some .badState
  | .absent => none

/-- R90: the due time, or the status that refuses it. -/
def Timebase.dueTime (t : Timebase) (r : TimingReference) (time : Count) : Status ⊕ Count :=
  match r with
  | .absolute => if ahead t.count time then .inr time else .inl .late
  | .relative =>
    if time.toNat = 0 then .inl .late
    else if Config.horizon < time.toNat then .inl .badArg
    else .inr (t.count + time)
  | .frame =>
    if !t.framing || t.nextPeriod == 0 then .inl .badState
    else if t.nextPeriod ≤ time.toNat then .inl .badArg
    else .inr (t.nextFrameStart + time)

/-- R92: the widths, the period and the repeat count of a request suit its kind. -/
def widthsFit (k : ActionKind) (widthA widthB : Option Nat) (period repeatCount : Nat) : Bool :=
  let common := period ≤ Config.horizon && (period != 0 || repeatCount == 1)
  match k, widthA, widthB with
  | .pulse, some a, none => common && (period == 0 || a < period)
  | .pulse, some a, some b => common && a < period && b < period
  | .pulse, none, _ => false
  | _, none, none => common
  | _, _, _ => false

/-- R88: the lowest-numbered empty slot. -/
def State.freeSlot (s : State) : Option Slot := (List.finRange 32).find? fun n => (s.action n).isNone

/-- R89: the record as submitted. -/
def submitted (m : Master) (f : SubmitFields) (x : SubmitForm) (due : Count) : ActionRecord where
  owner := m
  kind := x.kind
  target := x.target
  due := due
  phase := .armed
  widthA := widthOf f.widthA
  widthB := widthOf f.widthB
  nextWidth := .a
  period := f.period.toNat
  repeatCount := f.repeatCount.toNat
  remaining := if f.repeatCount.toNat = 0 then none else some f.repeatCount.toNat
  firings := 0
  notify := x.notify
  tag := f.tag
  staged := none

/-- R91, check 6, and R93. A master below its quota finds an empty slot (R105); without one, which no run reaches, the answer is
FULL (log 15). -/
def State.placeRecord (s : State) (r : ActionRecord) : State × Answer :=
  if (s.right r.owner).quota ≤ s.held r.owner then s.refuse .full
  else
    match s.freeSlot with
    | none => s.refuse .full
    | some n => (s.setAction n (some r), .ok ([nat8 n.val] ++ bytes32 r.due ++ timestampBytes s.now))

def takeActSubmit (m : Master) (f : SubmitFields) (s : State) : State × Answer :=
  match submitFormOf f with
  | none => s.refuse .badArg
  | some x =>
    match s.targetRefusal m x.target with
    | some st => s.refuse st
    | none =>
      match s.timebase.dueTime x.reference f.time with
      | .inl st => s.refuse st
      | .inr due =>
        if widthsFit x.kind (widthOf f.widthA) (widthOf f.widthB) f.period.toNat f.repeatCount.toNat then
          s.placeRecord (submitted m f x due)
        else s.refuse .badArg

/-- ACT_SUBMIT (R91 to R93). -/
def execActSubmit (m : Master) (f : SubmitFields) (s : State) : Host.Outcome State Fault Refusal :=
  .next (s.request m (.actSubmit m f) (takeActSubmit m f))

/-! ### A command on a slot (R99, R101, R103) -/

/-- The first three checks of ACT_MODIFY, ACT_CANCEL and ACT_READ: the slot, its record, its owner. -/
def State.ownRecord (s : State) (m : Master) (slot : Byte) : Status ⊕ (Slot × ActionRecord) :=
  match indexOf 32 slot with
  | none => .inl .badArg
  | some n =>
    match s.action n with
    | none => .inl .notFound
    | some r => if r.owner = m then .inr (n, r) else .inl .notOwner

/-! ### ACT_MODIFY (R99) -/

/-- R99, check 5: the values suit the record. -/
def ActionRecord.updateFits (r : ActionRecord) (u : StagedUpdate) : Bool :=
  let periodFits := 1 ≤ u.period && u.period ≤ Config.horizon
  match r.kind, u.widthA with
  | .pulse, some a =>
    periodFits && a < u.period && u.widthB.getD 0 < u.period && r.widthA.getD 0 < u.period && r.widthB.getD 0 < u.period
  | .pulse, none => false
  | _, none => periodFits && u.widthB.isNone
  | _, some _ => false

/-- Firings still to come in 2 bytes, 0 for unlimited (R178). -/
def remainingBytes (r : ActionRecord) : List Byte := nat16 (r.remaining.getD 0)

/-- Staged width A, width B and period, zero when absent (R178, R182). -/
def stagedBytes : Option StagedUpdate → List Byte
  | some u => nat24 (u.widthA.getD 0) ++ nat24 (u.widthB.getD 0) ++ nat32 u.period
  | none => nat24 0 ++ nat24 0 ++ nat32 0

def takeActModify (m : Master) (f : ModifyFields) (s : State) : State × Answer :=
  match s.ownRecord m f.slot with
  | .inl st => s.refuse st
  | .inr (n, r) =>
    let u : StagedUpdate := ⟨widthOf f.widthA, widthOf f.widthB, f.period.toNat⟩
    if r.period = 0 then s.refuse .badArg
    else if !r.updateFits u then s.refuse .badArg
    else
      (s.setAction n (some { r with staged := some u }),
        .ok (stagedBytes (some u) ++ bytes16 r.firings ++ remainingBytes r ++ bytes32 r.nextTime))

/-- ACT_MODIFY (R99). -/
def execActModify (m : Master) (f : ModifyFields) (s : State) : Host.Outcome State Fault Refusal :=
  .next (s.request m (.actModify m f) (takeActModify m f))

/-! ### ACT_CANCEL (R101) -/

/-- R101: an ACTIVE pulse hands on an inactive request as at its end. -/
def State.cancelAction (s : State) (n : Slot) (r : ActionRecord) : State :=
  (if r.isActive then s.requestTarget r .inactive else s).setAction n none

def takeActCancel (m : Master) (slot : Byte) (s : State) : State × Answer :=
  match s.ownRecord m slot with
  | .inl st => s.refuse st
  | .inr (n, r) =>
    (s.cancelAction n r,
      .ok (bytes16 r.firings ++ [flagCode r.isActive] ++ remainingBytes r ++ timestampBytes s.now))

/-- ACT_CANCEL (R101). -/
def execActCancel (m : Master) (slot : Byte) (s : State) : Host.Outcome State Fault Refusal :=
  .next (s.request m (.actCancel m slot) (takeActCancel m slot))

/-! ### ACT_READ (R103) -/

/-- Line number, or 0xFF when absent (R178). -/
def targetByte : Target → Byte
  | .output l => nat8 l.val
  | .capture n => nat8 n.val
  | .absent => 0xFF#8

/-- Bit 0 phase, bit 1 next width is B, bit 2 end present, bit 3 staged update present, bits 4..5 notify (R178). -/
def ActionRecord.controlByte (r : ActionRecord) : Byte :=
  nat8 (r.isActive.toNat + 2 * (r.nextWidth == .b).toNat + 4 * r.isActive.toNat + 8 * r.staged.isSome.toNat +
    16 * notifyCode r.notify)

/-- The end time, zero when absent. -/
def ActionRecord.stopBytes (r : ActionRecord) : List Byte :=
  match r.phase with
  | .armed => bytes32 0#32
  | .active stop => bytes32 stop

/-- The action record, 49 bytes (R178). -/
def State.recordBytes (s : State) (n : Slot) (r : ActionRecord) : List Byte :=
  [nat8 n.val, nat8 r.owner.val, actionKindCode r.kind, targetByte r.target, r.controlByte] ++ bytes32 r.due ++ r.stopBytes ++
    nat24 (r.widthA.getD 0) ++ nat24 (r.widthB.getD 0) ++ nat32 r.period ++ nat16 r.repeatCount ++ remainingBytes r ++
    bytes16 r.firings ++ [r.tag] ++ stagedBytes r.staged ++ bytes32 (distance s.timebase.count r.nextTime) ++
    timestampBytes s.now

/-- The ends, firings and dead-time expiries that the last announced count has left fall wholly before the snapshot, so that its
distance is 1 or more (R94, R103; log 3). -/
def takeActRead (m : Master) (slot : Byte) (s : State) : State × Answer :=
  let t := s.settle
  match t.ownRecord m slot with
  | .inl st => t.refuse st
  | .inr (n, r) => (t, .ok (t.recordBytes n r))

/-- ACT_READ (R103). -/
def execActRead (m : Master) (slot : Byte) (s : State) : Host.Outcome State Fault Refusal :=
  .next (s.request m (.actRead m slot) (takeActRead m slot))

/-! ### ACT_LIST (R104) -/

/-- The distance to the next event time of the record of a slot, with the slot, which orders ties (R88). -/
def State.nextOf (s : State) (n : Slot) : Nat × Nat :=
  match s.action n with
  | some r => ((distance s.timebase.count r.nextTime).toNat, n.val)
  | none => (0, n.val)

/-- Before or at, in the logical order of R88. -/
def State.notAfter (s : State) (a b : Slot) : Bool :=
  (s.nextOf a).1 < (s.nextOf b).1 || ((s.nextOf a).1 == (s.nextOf b).1 && (s.nextOf a).2 ≤ (s.nextOf b).2)

/-- A slot put into a list of slots in logical order. -/
def State.insertSlot (s : State) (a : Slot) : List Slot → List Slot
  | [] => [a]
  | b :: l => if s.notAfter a b then a :: b :: l else b :: s.insertSlot a l

/-- The caller's slots in logical order. -/
def State.ownSlots (s : State) (m : Master) : List Slot :=
  ((List.finRange 32).filter (s.selects fun r => r.owner == m)).foldr s.insertSlot []

def takeActList (m : Master) (s : State) : State × Answer :=
  (s, .ok ([nat8 (s.held m), nat8 (s.right m).quota] ++ timestampBytes s.now ++ (s.ownSlots m).map fun n => nat8 n.val))

/-- ACT_LIST (R104). -/
def execActList (m : Master) (s : State) : Host.Outcome State Fault Refusal :=
  .next (s.request m (.actList m) (takeActList m))

/-! ### Events -/

/-- ACTION_FIRING (R95, R97, R98): the firing of the slot's ARMED record, when the announced count has reached its due time and no
end or earlier firing comes before it; otherwise there is no such event (log 3, log 5). -/
def execActionFiring (n : Slot) (s : State) : Host.Outcome State Fault Refusal := .next (s.event fun t => t.takeFire n)

/-- PULSE_END (R96, R97, R98). -/
def execPulseEnd (n : Slot) (s : State) : Host.Outcome State Fault Refusal := .next (s.event fun t => t.takeEnd n)

end Sys2Proof.Machine
end

