-- ==== Sys2Proof/Machine/CaptureCommands.lean ====
section
/-! DEFINITION. The capture family: CAP_CONFIG, CAP_GATE, CAP_READ, GROUP_CONFIG, and the events CAPTURE_SAMPLE and
CAPTURE_QUALIFICATION (02_capture_lines_and_groups.md). -/
namespace Sys2Proof.Machine

/-! ### CAP_CONFIG (R28, R29) -/

/-- R29: the prescaler count becomes 0 when the mode changes, and when the edge select changes in EDGE mode. -/
def CaptureLine.keepsCount (c : CaptureLine) (x : CaptureSettings) : Bool :=
  c.mode == x.mode && (c.mode == .level || c.edgeSelect == x.edgeSelect)

/-- R29, with R20 for the filter and R24 for the gate. -/
def CaptureLine.configure (c : CaptureLine) (x : CaptureSettings) : CaptureLine :=
  { c with
    mode := x.mode
    edgeSelect := x.edgeSelect
    activeLevel := x.activeLevel
    filter := { c.filter with length := x.length, interval := x.interval }
    prescale := x.prescale
    prescalerCount := if c.keepsCount x then c.prescalerCount else 0
    gateEnable := x.gateEnable
    gate := if x.gateEnable then c.gate else .opened }

/-- R29: the capture event raised when the asserted condition differs before and after. -/
def CaptureLine.configEvent (before after : CaptureLine) : Option CaptureEvent :=
  match before.asserted, after.asserted with
  | false, true => some .assertion
  | true, false => some .deassertion
  | false, false => none
  | true, true => none

/-- R111: the reason for which GATE_OPEN records on the line are removed, unless it stays in EDGE mode with gate enable on. -/
def CaptureSettings.gateReason (x : CaptureSettings) : Option CancelReason :=
  match x.mode, x.gateEnable with
  | .level, _ => some .detachedTarget
  | .edge, false => some .released
  | .edge, true => none

/-- R111: a GATE_OPEN record on the line. -/
def ActionRecord.onCapture (n : CapLine) (r : ActionRecord) : Bool := r.target == .capture n

/-- R111: the removal as a hand-off. -/
def State.gateHandOff (s : State) (n : CapLine) (x : CaptureSettings) : List (State → State) :=
  match x.gateReason with
  | none => []
  | some reason =>
    if s.countRecords (ActionRecord.onCapture n) = 0 then []
    else [fun u => u.cancelRecords (ActionRecord.onCapture n) reason s.now]

/-- R29, R49: all fields in one step; the entry's trigger is the line's mode. -/
def State.configureCapture (s : State) (n : CapLine) (x : CaptureSettings) : State :=
  let c := (s.capture n).configure x
  match (s.capture n).configEvent c with
  | none => (s.setCapture n c).inAnyOrder (s.gateHandOff n x)
  | some ev => (s.setCapture n (c.stamp s.now)).inAnyOrder (s.gateHandOff n x ++ s.eventHandOffs n s.now ev)

/-- The configuration as the 10 bytes of the request payload (R182). -/
def CaptureLine.configBytes (n : CapLine) (c : CaptureLine) : List Byte :=
  [nat8 n.val, captureModeCode c.mode, edgeSelectCode c.edgeSelect, levelCode c.activeLevel, nat8 c.filter.length] ++
    nat16 c.filter.interval ++ nat16 c.prescale ++ [flagCode c.gateEnable]

/-- The response of CAP_CONFIG (R28, R182). -/
def CaptureLine.configAnswer (n : CapLine) (c : CaptureLine) : Answer :=
  .ok (c.configBytes n ++ [levelCode c.filter.level, flagCode c.asserted])

def takeCapConfig (m : Master) (f : CapFields) (s : State) : State × Answer :=
  match indexOf 16 f.line with
  | none => s.refuse .badArg
  | some n =>
    if !s.programs m (capEntry n) then s.refuse .denied
    else
      match captureSettingsOf f with
      | none => s.refuse .badArg
      | some x =>
        if (s.entry (capEntry n)).awaiting ≠ 0#4 then s.refuse .inService
        else (s.configureCapture n x, ((s.capture n).configure x).configAnswer n)

/-- CAP_CONFIG (R28, R29). -/
def execCapConfig (m : Master) (f : CapFields) (s : State) : Host.Outcome State Fault Refusal :=
  .next (s.request m (.capConfig m f) (takeCapConfig m f))

/-! ### CAP_GATE (R30) -/

def takeCapGate (m : Master) (line : Byte) (s : State) : State × Answer :=
  match indexOf 16 line with
  | none => s.refuse .badArg
  | some n =>
    if !s.programs m (capEntry n) then s.refuse .denied
    else
      let c := s.capture n
      (s.setCapture n c.openGate, .ok [flagCode c.gateEnable, gateCode c.gate, nat8 c.prescalerCount])

/-- CAP_GATE (R30). -/
def execCapGate (m : Master) (line : Byte) (s : State) : Host.Outcome State Fault Refusal :=
  .next (s.request m (.capGate m line) (takeCapGate m line))

/-! ### CAP_READ (R31) -/

/-- The snapshot, 26 bytes (R182). -/
def State.captureSnapshot (s : State) (n : CapLine) : List Byte :=
  let c := s.capture n
  c.configBytes n ++
    [levelCode c.filter.sample, nat8 c.filter.run, levelCode c.filter.level, flagCode c.asserted, nat8 c.prescalerCount,
      gateCode c.gate] ++
    optionalTimestamp c.lastTime ++ [levelCode c.lastLevel] ++ bytes16 c.eventCount ++ [set8 (s.groupsOf n)]

def takeCapRead (line : Byte) (s : State) : State × Answer :=
  match indexOf 16 line with
  | none => s.refuse .badArg
  | some n => (s, .ok (s.captureSnapshot n))

/-- CAP_READ (R31). -/
def execCapRead (m : Master) (line : Byte) (s : State) : Host.Outcome State Fault Refusal :=
  .next (s.request m (.capRead m line) (takeCapRead line))

/-! ### GROUP_CONFIG (R33) -/

def takeGroupConfig (m : Master) (group : Byte) (mask : BitVec 16) (s : State) : State × Answer :=
  match indexOf 4 group with
  | none => s.refuse .badArg
  | some g =>
    if !s.programs m (groupEntry g) then s.refuse .denied
    else (s.setGroup g mask, .ok (bytes16 mask ++ bytes16 s.snapshot))

/-- GROUP_CONFIG (R33). -/
def execGroupConfig (m : Master) (group : Byte) (mask : BitVec 16) (s : State) : Host.Outcome State Fault Refusal :=
  .next (s.request m (.groupConfig m group mask) (takeGroupConfig m group mask))

/-! ### Events -/

/-- CAPTURE_SAMPLE (R18, R19): one sample of the line's pin at a level; one that completes qualification is a qualified change. -/
def execCaptureSample (n : CapLine) (x : Level) (s : State) : Host.Outcome State Fault Refusal :=
  .next (s.event fun t => t.sampleCapture n x)

/-- CAPTURE_QUALIFICATION (R19, R21): the sample that completes qualification; a sample that does not is no such event (log 5). -/
def execCaptureQualification (n : CapLine) (x : Level) (s : State) : Host.Outcome State Fault Refusal :=
  .next (s.event fun t => if (t.capture n).filter.qualifies x then t.sampleCapture n x else t)

end Sys2Proof.Machine
end

