-- ==== Sys2Proof/Machine/CutoffCommands.lean ====
section
/-! DEFINITION. The Cutoff family: CUT_FORCE, CUT_RESTORE, CUT_CONFIG, CUT_READ, and the events CUTOFF_PIN_SAMPLE and
CUTOFF_PIN_QUALIFICATION (08_cutoff.md). -/
namespace Sys2Proof.Machine

/-! ### CUT_FORCE (R136) -/

def takeCutForce (m : Master) (s : State) : State × Answer :=
  if s.ownedLines m ≠ 0#8 ∨ s.supervisor = some m then
    let t := s.momentary (.force m) s.now
    (t, .ok ([cutStateCode t.cutoff.state, flagCode (s.cutoff.state == .armed)] ++ tripBytes t.cutoff.trip))
  else s.refuse .denied

/-- CUT_FORCE (R136). -/
def execCutForce (m : Master) (s : State) : Host.Outcome State Fault Refusal :=
  .next (s.request m (.cutForce m) (takeCutForce m))

/-! ### CUT_RESTORE (R141) -/

/-- A condition holds of every line of a set. -/
def allLines (lines : LineSet) (p : OutLine → Bool) : Bool := (List.finRange 8).all fun l => !lines.getLsbD l.val || p l

/-- R141, the checks in order. -/
def State.restoreRefusal (s : State) (m : Master) (lines : LineSet) : Option Status :=
  if lines = 0#8 ∨ !(allLines lines fun l => !s.complementB l) then some .badArg
  else if !(allLines lines fun l => (s.line l).owner == some m) then some .notOwner
  else if !(allLines lines fun l => (s.line l).drive == .cut) then some .badArg
  else if s.cutoff.asserted ≠ 0#17 then some .active
  else none

/-- R130, R141: every listed line, a COMPLEMENT pair as a whole, becomes DISABLED; then one re-arm check. -/
def State.restoreLines (s : State) (lines : LineSet) : State :=
  (s.changeLines (fun l => (s.wholePairs lines).getLsbD l.val) OutputLine.stopped).rearmCheck s.now

/-- The set of lines restored holds both lines of a COMPLEMENT pair (log 14). -/
def takeCutRestore (m : Master) (lines : BitVec 8) (s : State) : State × Answer :=
  match s.restoreRefusal m lines with
  | some st => s.refuse st
  | none =>
    let t := s.restoreLines lines
    (t, .ok ([s.wholePairs lines, cutStateCode t.cutoff.state] ++ timestampBytes s.now))

/-- CUT_RESTORE (R141). -/
def execCutRestore (m : Master) (lines : BitVec 8) (s : State) : Host.Outcome State Fault Refusal :=
  .next (s.request m (.cutRestore m lines) (takeCutRestore m lines))

/-! ### CUT_CONFIG (R142) -/

/-- R142, R134: the four settings in one step; a filter run in progress is kept as R20 states. -/
def Cutoff.configure (c : Cutoff) (x : PinSettings) : Cutoff :=
  { c with
    pinEnable := x.enable
    pinActive := x.activeLevel
    filter := { c.filter with length := x.length, interval := x.interval } }

/-- The response of CUT_CONFIG (R142, R182). -/
def Cutoff.configAnswer (c : Cutoff) : Answer :=
  .ok ([flagCode c.pinEnable, levelCode c.pinActive, nat8 c.filter.length] ++ nat16 c.filter.interval ++
    [levelCode c.filter.level, flagCode c.pinAsserted, cutStateCode c.state])

/-- R142: once a supervisor exists, the command is taken from it alone. -/
def State.mayConfigurePin (s : State) (m : Master) : Bool :=
  match s.supervisor with
  | none => true
  | some h => h == m

def takeCutConfig (m : Master) (f : CutFields) (s : State) : State × Answer :=
  if !s.mayConfigurePin m then s.refuse .denied
  else
    match pinSettingsOf f with
    | none => s.refuse .badArg
    | some x =>
      let t := (s.setCutoff (s.cutoff.configure x)).pinChanged s.cutoff.pinAsserted s.now
      (t, t.cutoff.configAnswer)

/-- CUT_CONFIG (R142). -/
def execCutConfig (m : Master) (f : CutFields) (s : State) : Host.Outcome State Fault Refusal :=
  .next (s.request m (.cutConfig m f) (takeCutConfig m f))

/-! ### CUT_READ (R143) -/

/-- The owner of the line when it is CUT, else 0xFF (R182). -/
def State.cutOwnerByte (s : State) (l : OutLine) : Byte :=
  if (s.line l).drive = .cut then masterByte (s.line l).owner else 0xFF#8

/-- The snapshot, 34 bytes (R182). -/
def State.cutoffBytes (s : State) : List Byte :=
  let c := s.cutoff
  [cutStateCode c.state] ++ tripBytes c.trip ++ set24 c.asserted ++
    [flagCode c.pinEnable, levelCode c.pinActive, nat8 c.filter.length] ++ nat16 c.filter.interval ++
    [levelCode c.filter.sample, nat8 c.filter.run, levelCode c.filter.level] ++ (List.finRange 8).map s.cutOwnerByte ++
    timestampBytes s.now

def takeCutRead (s : State) : State × Answer := (s, .ok s.cutoffBytes)

/-- CUT_READ (R143). -/
def execCutRead (m : Master) (s : State) : Host.Outcome State Fault Refusal :=
  .next (s.request m (.cutRead m) takeCutRead)

/-! ### Events -/

/-- CUTOFF_PIN_SAMPLE (R133, R134): one sample of the pin at a level; one that completes qualification is a qualified change. -/
def execCutoffPinSample (x : Level) (s : State) : Host.Outcome State Fault Refusal :=
  .next (s.event fun t => t.sampleCutoff x)

/-- CUTOFF_PIN_QUALIFICATION (R134): the sample that completes qualification; a sample that does not is no such event (log 5). -/
def execCutoffPinQualification (x : Level) (s : State) : Host.Outcome State Fault Refusal :=
  .next (s.event fun t => if t.cutoff.filter.qualifies x then t.sampleCutoff x else t)

end Sys2Proof.Machine
end

