-- ==== Sys2Proof/Machine/EntryCommands.lean ====
section
/-! DEFINITION. The Steering Table family: ENTRY_WRITE, ENTRY_MASK, ENTRY_READ, DONE and the event DEADLINE_EXPIRY
(03_the_steering_table.md, 04_service_completion_and_deadlines.md). -/
namespace Sys2Proof.Machine

/-! ### Snapshots (R54, R55, R177) -/

/-- Bit 0 mask, bit 1 delivery mode, bit 2 cutoff-source flag, bit 3 trigger. -/
def controlByte (masked one flag level : Bool) : Byte :=
  BitVec.ofNat 8 (masked.toNat + 2 * one.toNat + 4 * flag.toNat + 8 * level.toNat)

/-- Bit 0 qualified level high, bit 1 asserted; E16 to E23 read low and deasserted. -/
def State.lineLevelByte (s : State) (e : EntryIx) : Byte :=
  match entryLine e with
  | some n => BitVec.ofNat 8 (((s.capture n).filter.level == .high).toNat + 2 * (s.capture n).asserted.toNat)
  | none => 0#8

/-- The remaining service periods; 0 when stopped. -/
def Entry.remaining (x : Entry) : Nat :=
  match x.timer with
  | some t => t.remaining
  | none => 0

/-- The read form of the entry record (R54). -/
def State.entryBytes (s : State) (e : EntryIx) : List Byte :=
  let x := s.entry e
  [nat8 e.val, controlByte x.masked (x.delivery == .one) x.cutoffSource (s.levelEntry e), entryStatusCode x.status,
    set8 x.destinations, x.tag] ++
    bytes16 x.deadline ++ [set8 x.awaiting] ++ nat16 x.remaining ++ [nat8 x.rotation.val, s.lineLevelByte e]

/-- The restricted snapshot (R55). -/
def State.entryBytesRestricted (s : State) (e : EntryIx) : List Byte :=
  let x := s.entry e
  [nat8 e.val, controlByte x.masked false false (s.levelEntry e), entryStatusCode x.status, 0#8, 0#8] ++
    bytes16 0#16 ++ [0#8] ++ bytes16 0#16 ++ [0#8, s.lineLevelByte e]

def takeEntryRead (m : Master) (entry : Byte) (s : State) : State × Answer :=
  match indexOf 24 entry with
  | none => s.refuse .badArg
  | some e =>
    if s.programs m e then (s, .ok (s.entryBytes e)) else (s, ⟨.ok, s.entryBytesRestricted e, true⟩)

/-- ENTRY_READ (R54, R55). -/
def execEntryRead (m : Master) (entry : Byte) (s : State) : Host.Outcome State Fault Refusal :=
  .next (s.request m (.entryRead m entry) (takeEntryRead m entry))

/-! ### ENTRY_WRITE (R50 to R52) -/

/-- R52: the six programmable fields replaced; the entry is IDLE unless an attempt follows. -/
def Entry.write (x : Entry) (c : EntrySettings) : Entry :=
  { x with
    masked := c.masked
    destinations := c.destinations
    delivery := c.delivery
    tag := c.tag
    deadline := c.deadline
    cutoffSource := c.cutoffSource
    status := .idle }

/-- R50: what a change of the cutoff-source flag hands to the Cutoff Unit. -/
def State.flagHandOff (s : State) (e : EntryIx) (c : EntrySettings) : List (State → State) :=
  match entryLine e with
  | none => []
  | some n =>
    if (s.capture n).asserted then
      match (s.entry e).cutoffSource, c.cutoffSource with
      | false, true => [fun u => u.joinSource (.entry n) s.now]
      | true, false => [fun u => u.leaveSource (.entry n) s.now]
      | false, false => []
      | true, true => []
    else []

/-- R52: the attempt of a level entry whose line is asserted and which is unmasked after the command. -/
def State.writeAttempt (s : State) (e : EntryIx) (masked : Bool) : List (State → State) :=
  if s.entryAsserted e && !masked then [fun u => u.attempt e s.now] else []

def State.writeEntry (s : State) (e : EntryIx) (c : EntrySettings) : State :=
  (s.setEntry e ((s.entry e).write c)).inAnyOrder (s.writeAttempt e c.masked ++ s.flagHandOff e c)

def takeEntryWrite (m : Master) (f : EntryFields) (s : State) : State × Answer :=
  match indexOf 24 f.entry with
  | none => s.refuse .badArg
  | some e =>
    if !s.programs m e then s.refuse .denied
    else
      match entrySettingsOf f with
      | none => s.refuse .badArg
      | some c =>
        if c.cutoffSource && (entryLine e).isNone then s.refuse .badArg
        else if (s.entry e).awaiting ≠ 0#4 then s.refuse .inService
        else
          let t := s.writeEntry e c
          (t, .ok (t.entryBytes e))

/-- ENTRY_WRITE (R51, R52). -/
def execEntryWrite (m : Master) (f : EntryFields) (s : State) : Host.Outcome State Fault Refusal :=
  .next (s.request m (.entryWrite m f) (takeEntryWrite m f))

/-! ### ENTRY_MASK (R48, R53) -/

/-- R48: a change of the mask alone. -/
def State.changeMask (s : State) (e : EntryIx) (masked : Bool) : State :=
  let x := s.entry e
  match x.masked, masked with
  | true, false =>
    let t := s.setEntry e { x with masked := false }
    if s.entryAsserted e && x.awaiting == 0#4 then t.attempt e s.now else t
  | false, true => s.setEntry e { x with masked := true, status := if x.status = .held then .idle else x.status }
  | true, true => s
  | false, false => s

/-- The response: index, mask, status, awaiting set (R177). -/
def State.maskAnswer (s : State) (e : EntryIx) : Answer :=
  .ok [nat8 e.val, flagCode (s.entry e).masked, entryStatusCode (s.entry e).status, set8 (s.entry e).awaiting]

def takeEntryMask (m : Master) (entry mask : Byte) (s : State) : State × Answer :=
  match indexOf 24 entry, switchOf mask with
  | some e, some b =>
    if !s.programs m e then s.refuse .denied
    else
      let t := s.changeMask e b
      (t, t.maskAnswer e)
  | _, _ => s.refuse .badArg

/-- ENTRY_MASK (R53). -/
def execEntryMask (m : Master) (entry mask : Byte) (s : State) : Host.Outcome State Fault Refusal :=
  .next (s.request m (.entryMask m entry mask) (takeEntryMask m entry mask))

/-! ### DONE (R58 to R61) -/

/-- The affected entries: the tag matches and the awaiting set contains the caller. -/
def State.affected (s : State) (m : Master) (tag : Byte) : List EntryIx := s.awaitingEntries m fun x => x.tag == tag

/-- R58, R60, R61: the caller leaves each affected entry's awaiting set; what the entries do carries no order. -/
def State.complyDone (s : State) (m : Master) (tag : Byte) : State :=
  s.inAnyOrder ((s.affected m tag).map fun e u => u.leaveAwaiting m s.now e)

/-- The affected entries among E0 to E15 as a set (R59). -/
def State.affectedSet (s : State) (m : Master) (tag : Byte) : BitVec 16 :=
  setOf fun n : Fin 16 => (s.entry (capEntry n)).awaiting.getLsbD m.val && (s.entry (capEntry n)).tag == tag

def takeDone (m : Master) (tag : Byte) (s : State) : State × Answer :=
  (s.complyDone m tag,
    ⟨if (s.affected m tag).isEmpty then .noMatch else .ok,
      [nat8 (s.affected m tag).length] ++ bytes16 (s.affectedSet m tag), false⟩)

/-- DONE (R58, R59). -/
def execDone (m : Master) (tag : Byte) (s : State) : Host.Outcome State Fault Refusal :=
  .next (s.request m (.done m tag) (takeDone m tag))

/-! ### Deadline expiry (R64, R65) -/

/-- DEADLINE_EXPIRY (R64): the expiry of a timer that a service period event has ended; any other entry has none (log 5). -/
def execDeadlineExpiry (e : EntryIx) (s : State) : Host.Outcome State Fault Refusal :=
  .next (s.event fun t => if (t.entry e).expiring then t.expire e else t)

end Sys2Proof.Machine
end

