-- ==== Sys2Proof/Machine/LineCommands.lean ====
section
/-! DEFINITION. The Output Line family: LINE_CLAIM, LINE_RELEASE, LINE_CONFIG, LINE_ENABLE, LINE_DISABLE, LINE_READ, PAIR_CONFIG,
and the event DEAD_TIME_EXPIRY (07_output_lines_and_pairs.md). -/
namespace Sys2Proof.Machine

/-- The line of a command other than LINE_CONFIG and LINE_READ: a COMPLEMENT B line is refused like a number out of range (7.2). -/
def State.addressedLine (s : State) (line : Byte) : Option OutLine :=
  match indexOf 8 line with
  | none => none
  | some l => if s.complementB l then none else some l

/-- The line set of a master holds the line, and both lines of a COMPLEMENT pair (R117). -/
def State.mayClaim (s : State) (m : Master) (l : OutLine) : Bool :=
  (List.finRange 8).all fun k => !s.together l k || (s.right m).lines.getLsbD k.val

/-! ### LINE_CLAIM (R117) -/

def takeLineClaim (m : Master) (line : Byte) (s : State) : State × Answer :=
  match s.addressedLine line with
  | none => s.refuse .badArg
  | some l =>
    if !s.mayClaim m l then s.refuse .denied
    else if (s.line l).drive ≠ .float then s.refuse .taken
    else
      let x := s.line l
      let p := s.pair (pairOf l)
      (s.changeLines (s.together l) (OutputLine.claimed m),
        .ok ([nat8 l.val, driveCode .disabled, polarityCode x.polarity, electricalCode x.safe, flagCode x.cutEnable,
          pairModeCode p.mode] ++ nat16 p.deadTime))

/-- LINE_CLAIM (R117). -/
def execLineClaim (m : Master) (line : Byte) (s : State) : Host.Outcome State Fault Refusal :=
  .next (s.request m (.lineClaim m line) (takeLineClaim m line))

/-! ### LINE_RELEASE (R118) -/

def takeLineRelease (m : Master) (line : Byte) (s : State) : State × Answer :=
  match s.addressedLine line with
  | none => s.refuse .badArg
  | some l =>
    if (s.line l).owner ≠ some m then s.refuse .notOwner
    else if (s.line l).drive = .driven ∨ (s.line l).drive = .cut then s.refuse .inUse
    else (s.changeLines (s.together l) OutputLine.released, .ok [nat8 l.val, driveCode .float])

/-- LINE_RELEASE (R118). -/
def execLineRelease (m : Master) (line : Byte) (s : State) : Host.Outcome State Fault Refusal :=
  .next (s.request m (.lineRelease m line) (takeLineRelease m line))

/-! ### LINE_CONFIG (R119) -/

/-- The cut-enable a pair in COMPLEMENT mode holds, which is its A line's (R119). -/
def State.pairCutEnable (s : State) (l : OutLine) : Bool := (s.line (s.lead l)).cutEnable

/-- R119: polarity and safe level of the named line, and the cut-enable of the named line or, through an A line, of both lines of
a COMPLEMENT pair. -/
def State.configureLine (s : State) (l : OutLine) (c : LineSettings) : State :=
  { s with
    lines := Vector.ofFn fun k =>
      let x := s.line k
      let y := if s.together l k && !s.complementB l then { x with cutEnable := c.cutEnable } else x
      if k = l then { y with polarity := c.polarity, safe := c.safe } else y }

def takeLineConfig (m : Master) (f : LineFields) (s : State) : State × Answer :=
  match indexOf 8 f.line, lineSettingsOf f with
  | some l, some c =>
    if (s.line l).owner ≠ some m then s.refuse .notOwner
    else if (s.line l).drive ≠ .disabled then s.refuse .badState
    else if s.complementB l && c.cutEnable != s.pairCutEnable l then s.refuse .badArg
    else
      let t := s.configureLine l c
      (t, .ok [nat8 l.val, polarityCode (t.line l).polarity, electricalCode (t.line l).safe, flagCode (t.pairCutEnable l),
        pairModeCode (t.pair (pairOf l)).mode])
  | _, _ => s.refuse .badArg

/-- LINE_CONFIG (R119). -/
def execLineConfig (m : Master) (f : LineFields) (s : State) : Host.Outcome State Fault Refusal :=
  .next (s.request m (.lineConfig m f) (takeLineConfig m f))

/-! ### LINE_ENABLE (R120) -/

/-- The dead-time record: line to activate, remaining ticks (R180). -/
def deadTimeBytes : Option DeadTimeRecord → List Byte
  | some ⟨.a, k, _⟩ => [0#8] ++ nat16 k
  | some ⟨.b, k, _⟩ => [1#8] ++ nat16 k
  | none => [0xFF#8] ++ nat16 0

/-- A byte about line B of a COMPLEMENT pair; 0 in INDEPENDENT mode (R182). -/
def State.ofLineB (s : State) (l : OutLine) (f : OutLine → Byte) : Byte :=
  if s.complement (pairOf l) then f (lineB (pairOf l)) else 0#8

def State.enableAnswer (s : State) (l : OutLine) : Answer :=
  let p := s.pair (pairOf l)
  .ok ([nat8 l.val, driveCode (s.line l).drive, flagCode (s.line l).active, electricalCode (s.electrical l),
    pairModeCode p.mode, s.ofLineB l fun b => flagCode (s.line b).active, s.ofLineB l fun b => electricalCode (s.electrical b),
    pairStateCode p.state] ++ deadTimeBytes p.record)

def takeLineEnable (m : Master) (line : Byte) (s : State) : State × Answer :=
  match s.addressedLine line with
  | none => s.refuse .badArg
  | some l =>
    if (s.line l).owner ≠ some m then s.refuse .notOwner
    else
      match (s.line l).drive with
      | .cut => s.refuse .cut
      | .driven => s.refuse .badState
      | .float => s.refuse .notOwner
      | .disabled =>
        if (s.line l).cutEnable && s.cutoff.state == .tripped then s.refuse .cut
        else
          let t := s.enableLine l
          (t, t.enableAnswer l)

/-- LINE_ENABLE (R120). -/
def execLineEnable (m : Master) (line : Byte) (s : State) : Host.Outcome State Fault Refusal :=
  .next (s.request m (.lineEnable m line) (takeLineEnable m line))

/-! ### LINE_DISABLE (R121) -/

def State.disableAnswer (s : State) (l : OutLine) : Answer :=
  .ok [nat8 l.val, driveCode (s.line l).drive, electricalCode (s.electrical l), pairModeCode (s.pair (pairOf l)).mode,
    s.ofLineB l fun b => electricalCode (s.electrical b)]

def takeLineDisable (m : Master) (line : Byte) (s : State) : State × Answer :=
  match s.addressedLine line with
  | none => s.refuse .badArg
  | some l =>
    if (s.line l).owner ≠ some m then s.refuse .notOwner
    else
      match (s.line l).drive with
      | .cut => s.refuse .cut
      | .disabled => s.refuse .badState
      | .float => s.refuse .notOwner
      | .driven =>
        if s.lineInUse l then s.refuse .inUse
        else
          let t := s.disableLine l
          (t, t.disableAnswer l)

/-- LINE_DISABLE (R121). -/
def execLineDisable (m : Master) (line : Byte) (s : State) : Host.Outcome State Fault Refusal :=
  .next (s.request m (.lineDisable m line) (takeLineDisable m line))

/-! ### LINE_READ (R122) -/

/-- The snapshot, 21 bytes (R180). -/
def State.lineBytes (s : State) (l : OutLine) : List Byte :=
  let x := s.line l
  let p := s.pair (pairOf l)
  [nat8 l.val, driveCode x.drive, masterByte x.owner, polarityCode x.polarity, electricalCode x.safe, flagCode x.cutEnable,
    flagCode x.active, electricalCode (s.electrical l), pairModeCode p.mode] ++
    nat16 p.deadTime ++ [pairStateCode p.state] ++ deadTimeBytes p.record ++ [0#8] ++ timestampBytes s.now

def takeLineRead (line : Byte) (s : State) : State × Answer :=
  match indexOf 8 line with
  | none => s.refuse .badArg
  | some l => (s, .ok (s.lineBytes l))

/-- LINE_READ (R122). -/
def execLineRead (m : Master) (line : Byte) (s : State) : Host.Outcome State Fault Refusal :=
  .next (s.request m (.lineRead m line) (takeLineRead line))

/-! ### PAIR_CONFIG (R124) -/

/-- R124, checks 2 to 4. -/
def State.pairRefusal (s : State) (m : Master) (p : PairIx) (mode : PairMode) : Option Status :=
  let a := s.line (lineA p)
  let b := s.line (lineB p)
  if a.owner ≠ some m ∨ b.owner ≠ some m then some .notOwner
  else if a.drive ≠ .disabled ∨ b.drive ≠ .disabled then some .badState
  else if mode = .complement ∧ a.cutEnable ≠ b.cutEnable then some .badState
  else none

def takePairConfig (m : Master) (f : PairFields) (s : State) : State × Answer :=
  match indexOf 4 f.pair, pairModeOf f.mode, deadTimeOf f.deadTime with
  | some p, some mode, some d =>
    match s.pairRefusal m p mode with
    | some st => s.refuse st
    | none =>
      (s.setPair p { s.pair p with mode := mode, deadTime := d },
        .ok ([pairModeCode mode] ++ nat16 d ++
          [flagCode (s.line (lineA p)).cutEnable, flagCode (s.line (lineB p)).cutEnable]))
  | _, _, _ => s.refuse .badArg

/-- PAIR_CONFIG (R124). -/
def execPairConfig (m : Master) (f : PairFields) (s : State) : Host.Outcome State Fault Refusal :=
  .next (s.request m (.pairConfig m f) (takePairConfig m f))

/-! ### DEAD_TIME_EXPIRY (R128) -/

/-- DEAD_TIME_EXPIRY (R128): the expiry of a record whose last tick has been announced; any other pair has none (log 3, log 5). -/
def execDeadTimeExpiry (p : PairIx) (s : State) : Host.Outcome State Fault Refusal :=
  .next (s.event fun t => t.expireDeadTime p)

end Sys2Proof.Machine
end

