-- ==== Sys2Proof/Machine/PortCommands.lean ====
section
/-! DEFINITION. Reset and the Master Ports: DEVICE_RESET, RESET_RELEASE, REQUEST_FIRST_BYTE, REQUEST_FRAME, RESPONSE_READ,
RESPONSE_PLACEMENT, ATTACH, DETACH, SUSPEND, RESUME, STATUS and IDENTIFY (10_master_ports.md, R155). -/
namespace Sys2Proof.Machine

/-! ### Reset (R156) -/

/-- R156: a port after device reset. The level of its chip-select is not its own state (log 10, log 23). -/
def Port.deviceReset (p : Port) : Port := { Port.reset with selected := p.selected || p.stale }

/-- DEVICE_RESET (R156): every block takes its device reset value, and RESET is held low. The pins, the queue of commands and
the order of choices are not the part's (log 23). -/
def execDeviceReset (s : State) : Host.Outcome State Fault Refusal :=
  .next
    { State.reset with
      resetHeld := true
      capPins := s.capPins
      syncPin := s.syncPin
      cutoffPin := s.cutoffPin
      ports := Vector.ofFn fun m => (s.port m).deviceReset
      arbiter := s.arbiter
      pending := s.pending }

/-- R156: a port at the release of RESET. A chip-select that is low is treated as deasserted until it goes high and low again: one
of whose period the port has seen a byte, and one that the outside holds low without a complete byte yet. -/
def Port.released (p : Port) (low : Bool) : Port := { p with stale := p.selected || low }

/-- RESET_RELEASE (R156). Each port starts in IDLE; everything else starts from its reset value. Which chip-selects the outside
holds low without a complete byte is the next choice, one bit for each port (log 10). RESET that is not held low is not released
(log 5). -/
def execResetRelease (s : State) : Host.Outcome State Fault Refusal :=
  .next
    (if s.resetHeld then
      { s.spendChoice with
        resetHeld := false
        ports := Vector.ofFn fun m => (s.port m).released (s.choice.testBit m.val) }
    else s)

/-! ### Chip-select periods (R157 to R162) -/

/-- R157: a first byte other than 0x80 opens a request frame and takes a port in IDLE or RESPONSE_READY to RECEIVING. An EXECUTING
port does not move, and a period begun before RESET was released is ignored (R156). 0x80 begins a response read, which is one step
of its own (log 11). -/
def Port.firstByte (p : Port) (byte : Byte) : Port :=
  if p.stale || byte == Config.readByte then p
  else
    { p with
      selected := true
      state :=
        match p.state with
        | .idle => .receiving
        | .responseReady => .receiving
        | .executing => .executing
        | .receiving => .receiving }

/-- REQUEST_FIRST_BYTE (R157). While RESET is low the port ignores its chip-select, which is seen low at the release (R156). -/
def execRequestFirstByte (m : Master) (byte : Byte) (s : State) : Host.Outcome State Fault Refusal :=
  .next
    (if s.resetHeld then s.setPort m { s.port m with selected := true } else s.setPort m ((s.port m).firstByte byte))

/-- R158, R159: BAD_FRAME placed at a port that is not EXECUTING; it echoes the first byte of the frame. -/
def Port.badFrame (p : Port) (first : Byte) : Port :=
  { p with
    state := .responseReady
    slot := some ⟨.badFrame, first, false, p.slot.isSome, false, []⟩ }

/-- R163: the gate. What becomes of a valid request's code and payload: the status that refuses it, or the command handed to
its block. -/
def gate (m : Master) (a : Attachment) (code : Byte) (payload : List Byte) : Status ⊕ Instr :=
  match commandLength code with
  | none => .inl .badCmd
  | some n =>
    if payload.length = n then
      match decodeRequest m code payload with
      | some i =>
        match admission i a with
        | some st => .inl st
        | none => .inr i
      | none => .inl .badCmd
    else .inl .badArg

/-- A valid frame at a port that is not EXECUTING (R159): the port executes what the gate makes of it. -/
def State.takeFrame (s : State) (m : Master) (code : Byte) (payload : List Byte) : State :=
  let t := s.setPort m (s.port m).accept
  match gate m (s.attachment m) code payload with
  | .inl st => t.answer m code (Answer.refusal st)
  | .inr i => t.setPort m { t.port m with execution := some (.taken i) }

/-- R159: a request frame ends. -/
def State.frameEnds (s : State) (m : Master) (first : Byte) (bytes : List Byte) : State :=
  if (s.port m).state = .executing then s.setPort m (s.port m).collide
  else
    match frameProblem bytes with
    | some _ => s.setPort m ((s.port m).badFrame first)
    | none => s.takeFrame m first (framePayload bytes)

/-- The command code echoed by a PENDING reply (R161). -/
def Execution.code : Execution → Byte
  | .taken i => commandCode i
  | .built r => r.code

/-- The reply of a response read, by the port's state when the 0x80 completes (R161). -/
def Port.reply (p : Port) : Response :=
  match p.state, p.slot, p.execution with
  | .responseReady, some r, _ => r
  | .executing, _, some x => bareReply .pending x.code
  | .executing, _, none => bareReply .pending 0#8
  | _, _, _ => bareReply .nothing 0#8

/-- R161: a response read that clocks so many bytes after the 0x80. The slot is emptied when the whole of its response has been
shifted out. A port that is receiving a request frame has its period open and meets no read (log 11). -/
def State.readResponse (s : State) (m : Master) (clocked : Nat) : State :=
  let p := s.port m
  let reply := replyBytes (s.attention m) p.reply
  let q := { p with shifted := shiftedOut reply clocked }
  match p.state with
  | .receiving => s
  | .responseReady => s.setPort m (if reply.length ≤ clocked then { q with slot := none, state := .idle } else q)
  | .executing => s.setPort m q
  | .idle => s.setPort m q

/-- The port sees its chip-select high (R156, R157). -/
def Port.deselected (p : Port) : Port := { p with selected := false, stale := false }

/-- A chip-select period ends: ignored while RESET is low or when it began before the release (R156). -/
def State.periodEnds (s : State) (m : Master) (f : State → State) : State :=
  let t := if s.resetHeld || (s.port m).stale then s else f s
  t.setPort m (t.port m).deselected

/-- REQUEST_FRAME (R157 to R159, R163): the period's complete bytes. No byte is an empty period; a first byte 0x80 is a response
read. -/
def execRequestFrame (m : Master) (bytes : List Byte) (s : State) : Host.Outcome State Fault Refusal :=
  .next
    (s.periodEnds m fun t =>
      match bytes with
      | [] => t
      | first :: rest =>
        if first = Config.readByte then t.readResponse m rest.length else t.frameEnds m first (first :: rest))

/-- RESPONSE_READ (R161, R162). -/
def execResponseRead (m : Master) (clocked : Nat) (s : State) : Host.Outcome State Fault Refusal :=
  .next (s.periodEnds m fun t => t.readResponse m clocked)

/-- RESPONSE_PLACEMENT (R160). -/
def execResponsePlacement (m : Master) (s : State) : Host.Outcome State Fault Refusal :=
  .next (s.event fun t => t.setPort m (t.port m).place)

/-! ### Attachment (R164 to R168) -/

/-- R168: E23 fires once for a change of attachment state. -/
def State.attachChange (s : State) (m : Master) (a : Attachment) (t : Timestamp) : State :=
  s.edgeEvent attachEntry t (.attachChange m a)

/-- R69, R70, R168: the delivery attempts of the HELD entries that name m, and E23; they carry no order. -/
def State.attachedReactions (s : State) (m : Master) (t : Timestamp) : State :=
  s.inAnyOrder (((s.heldFor m).map fun e u => u.attempt e t) ++ [fun u => u.attachChange m .attached t])

def takeAttach (m : Master) (s : State) : State × Answer :=
  let t := (s.setAttachment m .attached).setQueue m { (s.queue m).emptied with enable := true }
  (t.attachedReactions m s.now,
    .ok ([attachmentCode .attached, nat8 m.val, masterByte s.supervisor] ++ timestampBytes s.now))

/-- ATTACH (R164). -/
def execAttach (m : Master) (s : State) : Host.Outcome State Fault Refusal :=
  .next (s.request m (.attach m) (takeAttach m))

/-- The response of SUSPEND and RESUME (R165, R166, R182). -/
def State.standing (s : State) (m : Master) (a : Attachment) : Answer :=
  .ok ([attachmentCode a, nat8 (s.depth m), flagCode (s.queue m).overflowing] ++ timestampBytes s.now)

/-- The response is built from the queue as the change leaves it. E23 does not deliver to a suspended master. -/
def takeSuspend (m : Master) (s : State) : State × Answer :=
  let t := (s.setAttachment m .suspended).attachChange m .suspended s.now
  (t, t.standing m .suspended)

/-- SUSPEND (R165). -/
def execSuspend (m : Master) (s : State) : Host.Outcome State Fault Refusal :=
  .next (s.request m (.suspend m) (takeSuspend m))

/-- R166. The depth and the overflow indication are those after the attempts of the HELD entries and E23, so they count the notices
these hand to the resuming master. R166 does not say on which side of them the two are taken: this side is the model's choice
(log 24). -/
def takeResume (m : Master) (s : State) : State × Answer :=
  let t := (s.setAttachment m .attached).attachedReactions m s.now
  (t, t.standing m .attached)

/-- RESUME (R166). -/
def execResume (m : Master) (s : State) : Host.Outcome State Fault Refusal :=
  .next (s.request m (.resume m) (takeResume m))

/-- A record the master owns (R112). -/
def ActionRecord.ownedBy (m : Master) (r : ActionRecord) : Bool := r.owner == m

/-- R167, the part of the teardown that raises no notice: the attachment state first, then the queue (R87), the records (R112) and
the lines (R131). -/
def State.tearDown (s : State) (m : Master) : State :=
  (((s.setAttachment m .detached).setQueue m (s.queue m).emptied).dropRecords (ActionRecord.ownedBy m)).releaseLines
    (s.wholePairs (s.ownedLines m))

/-- R167, the hand-offs that do: the entries that lose m from their awaiting sets (R71), the re-arm check (R139) if a line left
CUT, and E23. They carry no order. -/
def State.detachHandOffs (s : State) (m : Master) : List (State → State) :=
  ((s.awaitingEntries m fun _ => true).map fun e u => u.leaveAwaiting m s.now e) ++
    (if s.anyCut (s.wholePairs (s.ownedLines m)) then [fun u => u.rearmCheck s.now] else []) ++
    [fun u => u.attachChange m .detached s.now]

/-- The response of DETACH: the state before, the lines force-released, the records removed, the timestamp (R182). -/
def State.detachAnswer (s : State) (before : Attachment) (lines : LineSet) (records : Nat) : Answer :=
  .ok ([attachmentCode before, set8 lines, nat8 records] ++ timestampBytes s.now)

def takeDetach (m : Master) (s : State) : State × Answer :=
  if s.attachment m = .detached then (s, s.detachAnswer .detached 0#8 0)
  else
    ((s.tearDown m).inAnyOrder (s.detachHandOffs m),
      s.detachAnswer (s.attachment m) (s.wholePairs (s.ownedLines m)) (s.countRecords (ActionRecord.ownedBy m)))

/-- DETACH (R167). -/
def execDetach (m : Master) (s : State) : Host.Outcome State Fault Refusal :=
  .next (s.request m (.detach m) (takeDetach m))

/-! ### STATUS and IDENTIFY (R169, R155) -/

def takeStatus (m : Master) (s : State) : State × Answer :=
  (s, .ok [attachmentCode (s.attachment m), nat8 (s.depth m), flagCode (s.queue m).overflowing, masterByte s.supervisor,
    runCode s.timebase.run, cutStateCode s.cutoff.state])

/-- STATUS (R169). -/
def execStatus (m : Master) (s : State) : Host.Outcome State Fault Refusal :=
  .next (s.request m (.status m) (takeStatus m))

/-- 16 zero bytes while unwritten (R155). -/
def State.labelBytes (s : State) : List Byte :=
  match s.label with
  | some l => l.toList
  | none => List.replicate 16 0#8

def takeIdentify (m : Master) (s : State) : State × Answer :=
  (s, .ok (bytes16 Config.partCode ++ [Config.revision, nat8 m.val, masterByte s.supervisor, flagCode s.label.isSome] ++
    s.labelBytes))

/-- IDENTIFY (R155). -/
def execIdentify (m : Master) (s : State) : Host.Outcome State Fault Refusal :=
  .next (s.request m (.identify m) (takeIdentify m))

end Sys2Proof.Machine
end

