-- ==== Sys2Proof/Machine/QueueCommands.lean ====
section
/-! DEFINITION. The Notice Queue commands: FETCH and ATTN_ENABLE (05_notice_queues.md). -/
namespace Sys2Proof.Machine

/-- R81: the OVERFLOW notice of a queue's overflow record. -/
def NoticeQueue.overflowNotice (q : NoticeQueue) (t : Timestamp) : Notice :=
  ⟨.overflow q.losses q.firstLoss q.lostSources, 0, 0#8, t⟩

/-- R80, R81: the queue after its oldest notice has been removed from the given rest. -/
def NoticeQueue.afterFetch (q : NoticeQueue) (rest : List Notice) (t : Timestamp) : NoticeQueue :=
  if q.overflowing then { q.emptied with notices := rest ++ [q.overflowNotice t] } else { q with notices := rest }

/-- The response of a successful FETCH: the notice, the more indication, the depth (R80, R176). -/
def fetchAnswer (n : Notice) (q : NoticeQueue) : Answer :=
  .ok (noticeBytes n ++ [flagCode !q.notices.isEmpty, nat8 q.notices.length])

def takeFetch (m : Master) (s : State) : State × Answer :=
  match (s.queue m).notices with
  | [] => s.refuse .nothing
  | n :: rest =>
    let q := (s.queue m).afterFetch rest s.now
    (s.setQueue m q, fetchAnswer n q)

/-- FETCH (R80, R81). -/
def execFetch (m : Master) (s : State) : Host.Outcome State Fault Refusal := .next (s.request m (.fetch m) (takeFetch m))

def takeAttnEnable (m : Master) (x : Byte) (s : State) : State × Answer :=
  match switchOf x with
  | none => s.refuse .badArg
  | some b => (s.setQueue m { s.queue m with enable := b }, .ok [flagCode b, nat8 (s.depth m)])

/-- ATTN_ENABLE (R84). -/
def execAttnEnable (m : Master) (x : Byte) (s : State) : Host.Outcome State Fault Refusal :=
  .next (s.request m (.attnEnable m x) (takeAttnEnable m x))

end Sys2Proof.Machine
end

