-- ==== Sys2Proof/Machine/RightsCommands.lean ====
section
/-! DEFINITION. The Rights Unit: SUPV_CLAIM, RIGHTS_WRITE, RIGHTS_READ and LABEL_WRITE (09_rights_and_the_supervisor.md). -/
namespace Sys2Proof.Machine

def takeSupvClaim (m : Master) (s : State) : State × Answer :=
  match s.supervisor with
  | none => ({ s with supervisor := some m }, .ok [nat8 m.val])
  | some h => (s, ⟨.taken, [nat8 h.val], false⟩)

/-- SUPV_CLAIM (R147). -/
def execSupvClaim (m : Master) (s : State) : Host.Outcome State Fault Refusal :=
  .next (s.request m (.supvClaim m) (takeSupvClaim m))

/-- The rights record as RIGHTS_WRITE carries it (R179). -/
def rightsBytes (n : Master) (r : Rights) : List Byte :=
  [nat8 n.val] ++ bytes24 r.entries ++ [r.lines, nat8 r.quota, flagCode r.timebase]

/-- R150: the lines a write withdraws while the named master owns them, COMPLEMENT pairs whole. -/
def State.withdrawnLines (s : State) (c : RightsSettings) : LineSet :=
  s.wholePairs ((s.right c.master).lines &&& ~~~ c.rights.lines &&& s.ownedLines c.master)

/-- R151: the entries a write withdraws. -/
def State.withdrawnEntries (s : State) (c : RightsSettings) : EntrySet :=
  (s.right c.master).entries &&& ~~~ c.rights.entries

/-- R110: the records a write removes. -/
def revokes (m : Master) (lines : LineSet) (entries : EntrySet) (r : ActionRecord) : Bool :=
  match r.target with
  | .output l => lines.getLsbD l.val
  | .capture n => r.owner == m && entries.getLsbD n.val
  | .absent => false

/-- R150: the record replaced, the withdrawn lines force-released, and the cascades that carry no order: the removals and the
re-arm check. -/
def State.writeRights (s : State) (c : RightsSettings) : State :=
  let lines := s.withdrawnLines c
  let gone := revokes c.master lines (s.withdrawnEntries c)
  ((s.setRight c.master c.rights).releaseLines lines).inAnyOrder
    ((if s.countRecords gone = 0 then [] else [fun u => u.cancelRecords gone .revoked s.now]) ++
      (if s.anyCut lines then [fun u => u.rearmCheck s.now] else []))

/-- R149, checks 3 and 4, over the state before the command. -/
def State.rightsRefusal (s : State) (c : RightsSettings) : Option Status :=
  if c.rights.quota < s.held c.master then some .inUse
  else if Config.quotaCeiling < s.quotaSum - (s.right c.master).quota + c.rights.quota then some .full
  else none

def takeRightsWrite (m : Master) (f : RightsFields) (s : State) : State × Answer :=
  if s.supervisor ≠ some m then s.refuse .denied
  else
    match rightsSettingsOf f with
    | none => s.refuse .badArg
    | some c =>
      match s.rightsRefusal c with
      | some st => s.refuse st
      | none =>
        let t := s.writeRights c
        (t, .ok (rightsBytes c.master c.rights ++
          [nat8 (t.held c.master), s.withdrawnLines c,
            nat8 (s.countRecords (revokes c.master (s.withdrawnLines c) (s.withdrawnEntries c)))]))

/-- RIGHTS_WRITE (R149 to R151). -/
def execRightsWrite (m : Master) (f : RightsFields) (s : State) : Host.Outcome State Fault Refusal :=
  .next (s.request m (.rightsWrite m f) (takeRightsWrite m f))

def takeRightsRead (m : Master) (x : Byte) (s : State) : State × Answer :=
  match indexOf 4 x with
  | none => s.refuse .badArg
  | some n =>
    if n = m ∨ s.supervisor = some m then
      (s, .ok (rightsBytes n (s.right n) ++ [nat8 (s.held n), nat8 s.quotaSum, masterByte s.supervisor]))
    else s.refuse .denied

/-- RIGHTS_READ (R153). -/
def execRightsRead (m : Master) (x : Byte) (s : State) : Host.Outcome State Fault Refusal :=
  .next (s.request m (.rightsRead m x) (takeRightsRead m x))

def takeLabelWrite (m : Master) (l : Vector Byte 16) (s : State) : State × Answer :=
  if s.supervisor ≠ some m then s.refuse .denied
  else if s.label.isSome then s.refuse .once
  else ({ s with label := some l }, .ok l.toList)

/-- LABEL_WRITE (R154). -/
def execLabelWrite (m : Master) (l : Vector Byte 16) (s : State) : Host.Outcome State Fault Refusal :=
  .next (s.request m (.labelWrite m l) (takeLabelWrite m l))

end Sys2Proof.Machine
end

