-- ==== Sys2Proof/Machine/TimebaseCommands.lean ====
section
/-! DEFINITION. The Timebase family: TB_CONFIG, TB_RUN, TB_HOLD, TB_RESYNC, TB_READ, and the events TICK, SYNC_SAMPLE, SYNC_EDGE
and SERVICE_PERIOD (01_timebase.md). -/
namespace Sys2Proof.Machine

/-! ### TB_RUN and TB_HOLD (R7, R8) -/

/-- The response of both: the run state after the command and the timestamp (R182). -/
def State.runAnswer (s : State) : Answer := .ok ([runCode s.timebase.run] ++ timestampBytes s.now)

def Timebase.toRunning (t : Timebase) : Timebase :=
  match t.run with
  | .halted => { t with run := .running, divider := 0 }
  | .running => t

def Timebase.toHalted (t : Timebase) : Timebase :=
  match t.run with
  | .running => { t with run := .halted, divider := 0 }
  | .halted => t

def takeTbRun (m : Master) (s : State) : State × Answer :=
  if (s.right m).timebase then
    let t := s.setTimebase s.timebase.toRunning
    (t, t.runAnswer)
  else s.refuse .denied

/-- TB_RUN (R7). -/
def execTbRun (m : Master) (s : State) : Host.Outcome State Fault Refusal := .next (s.request m (.tbRun m) (takeTbRun m))

/-- R8. Whatever the last announced count has left is taken before the halt, so that nothing fires, ends or expires while HALTED
(R94, R96, R106, R128; log 3). -/
def takeTbHold (m : Master) (s : State) : State × Answer :=
  if (s.right m).timebase then
    let u := s.settle
    let t := u.setTimebase u.timebase.toHalted
    (t, t.runAnswer)
  else s.refuse .denied

/-- TB_HOLD (R8). -/
def execTbHold (m : Master) (s : State) : Host.Outcome State Fault Refusal :=
  .next (s.request m (.tbHold m) (takeTbHold m))

/-! ### TB_CONFIG (R9 to R11) -/

/-- R10: a frame period written while framing is off or on. -/
def Timebase.writePeriod (t : Timebase) (p : Nat) : Timebase :=
  if t.framing then { t with staged := some p } else { t with framePeriod := p, phase := 0 }

/-- R9 to R11: the selected settings, in one step. -/
def Timebase.configure (t : Timebase) (c : TimebaseSettings) : Timebase :=
  let u :=
    { t with
      prescale := c.prescale.getD t.prescale
      syncMode := c.syncMode.getD t.syncMode
      resyncValue := c.resyncValue.getD t.resyncValue }
  match c.framePeriod with
  | some p => u.writePeriod p
  | none => u

def takeTbConfig (m : Master) (f : TbFields) (s : State) : State × Answer :=
  if !(s.right m).timebase then s.refuse .denied
  else
    match timebaseSettingsOf f with
    | none => s.refuse .badArg
    | some c =>
      if c.prescale.isSome && s.timebase.run == .running then s.refuse .badState
      else
        let t := s.timebase.configure c
        (s.setTimebase t, .ok (nat24 t.framePeriod ++ stagedPeriodBytes t.staged))

/-- TB_CONFIG (R9). -/
def execTbConfig (m : Master) (f : TbFields) (s : State) : Host.Outcome State Fault Refusal :=
  .next (s.request m (.tbConfig m f) (takeTbConfig m f))

/-! ### TB_RESYNC (R14) -/

def takeTbResync (m : Master) (s : State) : State × Answer :=
  if (s.right m).timebase then
    let t := s.resync
    (t, .ok (bytes32 s.timebase.count ++ timestampBytes t.now))
  else s.refuse .denied

/-- TB_RESYNC (R14). -/
def execTbResync (m : Master) (s : State) : Host.Outcome State Fault Refusal :=
  .next (s.request m (.tbResync m) (takeTbResync m))

/-! ### TB_READ (R16) -/

/-- The snapshot, 24 bytes (R182). -/
def Timebase.snapshot (t : Timebase) : List Byte :=
  [runCode t.run, t.epoch] ++ bytes32 t.count ++ nat16 t.prescale ++ nat24 t.framePeriod ++ stagedPeriodBytes t.staged ++
    nat24 t.phase ++ [syncModeCode t.syncMode] ++ bytes32 t.resyncValue ++ [levelCode t.syncSample]

def takeTbRead (s : State) : State × Answer := (s, .ok s.timebase.snapshot)

/-- TB_READ (R16). -/
def execTbRead (m : Master) (s : State) : Host.Outcome State Fault Refusal := .next (s.request m (.tbRead m) takeTbRead)

/-! ### Events -/

/-- TICK (R2 to R4): while HALTED no tick occurs. -/
def execTick (s : State) : Host.Outcome State Fault Refusal :=
  .next (s.event fun t => if t.timebase.run = .running then t.tick else t)

/-- SERVICE_PERIOD (R6, R62): in every state of the Timebase. -/
def execServicePeriod (s : State) : Host.Outcome State Fault Refusal := .next (s.event State.servicePeriod)

/-- SYNC_SAMPLE (R12): the sample is taken, and an edge that qualifies starts its resync. -/
def execSyncSample (x : Level) (s : State) : Host.Outcome State Fault Refusal := .next (s.event fun t => t.sampleSync x)

/-- SYNC_EDGE (R12): the sample that shows a qualifying edge; a sample that shows none is no such event (log 5). -/
def execSyncEdge (x : Level) (s : State) : Host.Outcome State Fault Refusal :=
  .next (s.event fun t => if t.timebase.syncEdge x then t.sampleSync x else t)

end Sys2Proof.Machine
end

