-- ==== Sys2Proof/Machine/Clock.lean ====
section
/-! DEFINITION. What the part does when no command waits (log 1): the executions and the events it has under way, and one period
of the 50 MHz reference clock, whose dividers bring on ticks (R2), service periods (R6) and samples (R12, R18, R133). -/
namespace Sys2Proof.Machine

/-! ### What the part has under way -/

/-- The end of what a port is executing: its command carried out, or its built response placed (R160). -/
def State.portEvent (s : State) (m : Master) : Option Instr :=
  match (s.port m).execution with
  | some (.taken i) => some i
  | some (.built _) => some (.responsePlacement m)
  | none => none

/-- The next end or firing of the announced count (R98). -/
def State.scheduleEvent (s : State) : Option Instr :=
  match s.nextEnd with
  | some n => some (.pulseEnd n)
  | none => s.nextFire.map .actionFiring

/-- The steps that follow from what has already happened. They carry no order among themselves. -/
def State.ownEvents (s : State) : List Instr :=
  (List.finRange 4).filterMap s.portEvent ++
    (((List.finRange 4).filter s.expiryDue).map .deadTimeExpiry) ++ s.scheduleEvent.toList ++
    s.expiringEntries.map .deadlineExpiry

/-! ### One reference period -/

/-- A divider after one more reference period, and whether it has counted its number of them (R2, R6, R18). -/
def countPeriod (limit n : Nat) : Nat × Bool := if limit ≤ n + 1 then (0, true) else (n + 1, false)

/-- A filter's sample divider after one more reference period (R18). -/
def Filter.countPeriod (f : Filter) : Filter := { f with divider := (Machine.countPeriod f.interval f.divider).1 }

/-- The tick divider runs while RUNNING (R2), the service-period divider always (R6). -/
def Timebase.countPeriod (t : Timebase) : Timebase :=
  { t with
    divider := if t.run = .running then (Machine.countPeriod t.prescale t.divider).1 else t.divider
    serviceDivider := (Machine.countPeriod Config.servicePeriod t.serviceDivider).1 }

/-- The events a reference period brings on: a tick, a service period, a sample of each pin whose interval has passed, and the
sample of the SYNC input, taken in every period (R2, R6, R12, R18, R133). -/
def State.periodEvents (s : State) : List Instr :=
  (if s.timebase.run = .running ∧ (Machine.countPeriod s.timebase.prescale s.timebase.divider).2 then [.tick] else []) ++
    (if (Machine.countPeriod Config.servicePeriod s.timebase.serviceDivider).2 then [.servicePeriod] else []) ++
    (((List.finRange 16).filter fun n =>
        (Machine.countPeriod (s.capture n).filter.interval (s.capture n).filter.divider).2).map fun n =>
      .captureSample n s.capPins[n]) ++
    (if (Machine.countPeriod s.cutoff.filter.interval s.cutoff.filter.divider).2 then [.cutoffPinSample s.cutoffPin]
     else []) ++
    [.syncSample s.syncPin]

/-- The dividers after one more reference period. -/
def State.countPeriods (s : State) : State :=
  { s with
    timebase := s.timebase.countPeriod
    captures := Vector.ofFn fun n => { s.capture n with filter := (s.capture n).filter.countPeriod }
    cutoff := { s.cutoff with filter := s.cutoff.filter.countPeriod } }

/-- One reference period: the dividers count, and the events they bring on wait to be taken, in the order the next choice gives;
one event alone leaves nothing to choose (log 6). -/
def State.referencePeriod (s : State) : State :=
  let t := s.countPeriods
  match s.periodEvents with
  | [] => t
  | [i] => { t with pending := s.pending ++ [i] }
  | i :: j :: rest => { t.spendChoice with pending := s.pending ++ arrange s.choice (i :: j :: rest) }

/-! ### An empty queue -/

/-- What comes next on an empty queue: one of the part's own events, or none for a reference period. With nothing under way there
is nothing to choose (log 1). -/
def State.ownNext (s : State) : Option Instr :=
  if s.ownEvents.isEmpty then none else s.ownEvents[s.choice % (s.ownEvents.length + 1)]?

/-- The state that ownNext's event acts on, or that its reference period passes in: the choice it took is spent. -/
def State.ownState (s : State) : State := if s.ownEvents.isEmpty then s else s.spendChoice

/-- A reference period, while RESET is not held low (R156). -/
def State.passPeriod (s : State) : State := s.event State.referencePeriod

end Sys2Proof.Machine
end

