-- ==== Sys2Proof/Machine/Dispatch.lean ====
section
/-! DEFINITION. The meaning of every command of the table: one arm per row, one direct call of its meaning. -/
namespace Sys2Proof.Machine

def exec (i : Instr) (s : State) : Host.Outcome State Fault Refusal :=
  match i with
  | .deviceReset => Sys2Proof.Machine.execDeviceReset s
  | .resetRelease => Sys2Proof.Machine.execResetRelease s
  | .requestFrame m bytes => Sys2Proof.Machine.execRequestFrame m bytes s
  | .responseRead m clocked => Sys2Proof.Machine.execResponseRead m clocked s
  | .responsePlacement m => Sys2Proof.Machine.execResponsePlacement m s
  | .attach m => Sys2Proof.Machine.execAttach m s
  | .detach m => Sys2Proof.Machine.execDetach m s
  | .suspend m => Sys2Proof.Machine.execSuspend m s
  | .resume m => Sys2Proof.Machine.execResume m s
  | .status m => Sys2Proof.Machine.execStatus m s
  | .identify m => Sys2Proof.Machine.execIdentify m s
  | .supvClaim m => Sys2Proof.Machine.execSupvClaim m s
  | .rightsWrite m f => Sys2Proof.Machine.execRightsWrite m f s
  | .rightsRead m master => Sys2Proof.Machine.execRightsRead m master s
  | .labelWrite m label => Sys2Proof.Machine.execLabelWrite m label s
  | .tbConfig m f => Sys2Proof.Machine.execTbConfig m f s
  | .tbRun m => Sys2Proof.Machine.execTbRun m s
  | .tbHold m => Sys2Proof.Machine.execTbHold m s
  | .tbResync m => Sys2Proof.Machine.execTbResync m s
  | .syncEdge level => Sys2Proof.Machine.execSyncEdge level s
  | .tbRead m => Sys2Proof.Machine.execTbRead m s
  | .tick => Sys2Proof.Machine.execTick s
  | .servicePeriod => Sys2Proof.Machine.execServicePeriod s
  | .deadlineExpiry e => Sys2Proof.Machine.execDeadlineExpiry e s
  | .captureQualification n level => Sys2Proof.Machine.execCaptureQualification n level s
  | .cutoffPinQualification level => Sys2Proof.Machine.execCutoffPinQualification level s
  | .capConfig m f => Sys2Proof.Machine.execCapConfig m f s
  | .capGate m line => Sys2Proof.Machine.execCapGate m line s
  | .capRead m line => Sys2Proof.Machine.execCapRead m line s
  | .groupConfig m group mask => Sys2Proof.Machine.execGroupConfig m group mask s
  | .entryWrite m f => Sys2Proof.Machine.execEntryWrite m f s
  | .entryMask m entry mask => Sys2Proof.Machine.execEntryMask m entry mask s
  | .entryRead m entry => Sys2Proof.Machine.execEntryRead m entry s
  | .done m tag => Sys2Proof.Machine.execDone m tag s
  | .fetch m => Sys2Proof.Machine.execFetch m s
  | .attnEnable m enable => Sys2Proof.Machine.execAttnEnable m enable s
  | .actSubmit m f => Sys2Proof.Machine.execActSubmit m f s
  | .actModify m f => Sys2Proof.Machine.execActModify m f s
  | .actCancel m slot => Sys2Proof.Machine.execActCancel m slot s
  | .actRead m slot => Sys2Proof.Machine.execActRead m slot s
  | .actList m => Sys2Proof.Machine.execActList m s
  | .actionFiring n => Sys2Proof.Machine.execActionFiring n s
  | .pulseEnd n => Sys2Proof.Machine.execPulseEnd n s
  | .deadTimeExpiry p => Sys2Proof.Machine.execDeadTimeExpiry p s
  | .lineClaim m line => Sys2Proof.Machine.execLineClaim m line s
  | .lineRelease m line => Sys2Proof.Machine.execLineRelease m line s
  | .lineConfig m f => Sys2Proof.Machine.execLineConfig m f s
  | .lineEnable m line => Sys2Proof.Machine.execLineEnable m line s
  | .lineDisable m line => Sys2Proof.Machine.execLineDisable m line s
  | .lineRead m line => Sys2Proof.Machine.execLineRead m line s
  | .pairConfig m f => Sys2Proof.Machine.execPairConfig m f s
  | .cutForce m => Sys2Proof.Machine.execCutForce m s
  | .cutRestore m lines => Sys2Proof.Machine.execCutRestore m lines s
  | .cutConfig m f => Sys2Proof.Machine.execCutConfig m f s
  | .cutRead m => Sys2Proof.Machine.execCutRead m s
  | .captureSample n level => Sys2Proof.Machine.execCaptureSample n level s
  | .cutoffPinSample level => Sys2Proof.Machine.execCutoffPinSample level s
  | .syncSample level => Sys2Proof.Machine.execSyncSample level s
  | .requestFirstByte m byte => Sys2Proof.Machine.execRequestFirstByte m byte s

end Sys2Proof.Machine
end

