-- ==== Sys2Proof/Machine/Step.lean ====
section
/-! DEFINITION. One step of the part: the command at the front of the queue is taken; on an empty queue the part does what it has
under way, or a reference period passes (log 1). -/
namespace Sys2Proof.Machine

/-- The state with a command taken off its queue's front: the queue's rest. -/
def State.withPending (s : State) (rest : List Instr) : State := { s with pending := rest }

/-- Three outcomes are possible in the host's type; every step of this part answers a next state (log 16). -/
def step (s : State) : Host.Outcome State Fault Refusal :=
  match s.pending with
  | i :: rest => exec i (s.withPending rest)
  | [] =>
    match s.ownNext with
    | some i => exec i s.ownState
    | none => .next s.ownState.passPeriod

/-- The state with the command a table word spells put at the front of its queue; the table gives no row any bits, so no word
spells one (log 21). -/
def State.withFetchWord (s : State) (nbits w : Nat) : State :=
  match decodeTableWord nbits w with
  | some i => s.withPending (i :: s.pending)
  | none => s

end Sys2Proof.Machine
end

