-- ==== Sys2Proof/Safety.lean ====
section
/-! DEFINITION. The words the statements about the part are made of: when a master's command reaches its block, the state the
block finds, and what holds of every state a run can reach. -/
namespace Sys2Proof

/-- The master that requests a command; an event of the part or of the field has none (R173). -/
def Instr.requester (i : Instr) : Option Master := (encodeRequest i).map fun r => r.1

end Sys2Proof

namespace Sys2Proof.Machine

/-! ### A command at its port -/

/-- Master m's command i is carried out by its block: RESET is released, and either the port is executing this very command (R159)
or it is executing no other and the attachment state admits the command (R163). -/
def State.carriesOut (s : State) (m : Master) (i : Instr) : Bool :=
  !s.resetHeld &&
    match (s.port m).execution with
    | some (.taken j) => j == i
    | _ => (admission i (s.attachment m)).isNone

/-- The state the block finds: the command's own frame accepted at the port, if the row stands for the frame too (log 2). -/
def State.front (s : State) (m : Master) : State :=
  match (s.port m).execution with
  | some (.taken _) => s
  | _ => s.setPort m (s.port m).place.accept

/-- A set of hand-offs taken one after the other in some order, from a state that differs from s in its open choices alone
(log 6). Each is taken in full before the next, at every queue it reaches (log 26). -/
def State.afterAll (s : State) (handOffs : List (State → State)) (t : State) : Prop :=
  ∃ (arbiter : List Nat) (order : List (State → State)),
    order.Perm handOffs ∧ t = order.foldl (fun u f => f u) { s with arbiter := arbiter }

/-! ### What holds of every state a run can reach -/

/-- R74, R77: a queue holds at most 16 notices, and its overflow record is non-empty only while it holds 16. -/
def NoticeQueue.sound (q : NoticeQueue) : Prop :=
  q.notices.length ≤ 16 ∧ q.losses ≤ 65535 ∧ (q.losses ≠ 0 → q.notices.length = 16) ∧
    (q.firstLoss = none ↔ q.losses = 0) ∧ (q.lostSources = 0#25 ↔ q.losses = 0)

def State.queuesSound (s : State) : Prop := ∀ m, (s.queue m).sound

/-- R1, R2, R7, R8: the ranges of the Timebase's state. -/
def Timebase.sound (t : Timebase) : Prop :=
  1 ≤ t.prescale ∧ t.prescale ≤ 256 ∧ t.divider < t.prescale ∧ (t.run = .halted → t.divider = 0) ∧
    t.framePeriod ≠ 1 ∧ t.framePeriod < 2 ^ 24 ∧ (t.framePeriod = 0 → t.phase = 0 ∧ t.staged = none) ∧
    (t.framePeriod ≠ 0 → t.phase < t.framePeriod) ∧ (∀ p, t.staged = some p → p ≠ 1 ∧ p < 2 ^ 24) ∧
    t.serviceDivider < 5000

/-- R17, R24, R25: the ranges of a capture line's state; the gate is OPEN while its enable is off, and the prescaler count stays at
0 in LEVEL mode. -/
def CaptureLine.sound (c : CaptureLine) : Prop :=
  c.filter.length ≤ 15 ∧ c.filter.run ≤ 15 ∧
    (c.filter.interval = 1 ∨ c.filter.interval = 8 ∨ c.filter.interval = 64 ∨ c.filter.interval = 512) ∧
    1 ≤ c.prescale ∧ c.prescale ≤ 256 ∧ c.prescalerCount ≤ 255 ∧ (c.gateEnable = false → c.gate = .opened) ∧
    (c.mode = .level → c.prescalerCount = 0)

def State.capturesSound (s : State) : Prop := ∀ n, (s.capture n).sound

/-- R105, R149: no master holds more records than its quota, and the quotas sum to no more than the slots. -/
def State.quotasSound (s : State) : Prop := (∀ m, s.held m ≤ (s.right m).quota) ∧ s.quotaSum ≤ 32

/-- R114, R115, R119, R123: a line has an owner unless it is FLOAT, its logical level is inactive unless it is DRIVEN, and the two
lines of a COMPLEMENT pair agree in owner, drive state and cut-enable. -/
def State.linesSound (s : State) : Prop :=
  (∀ l, ((s.line l).owner = none ↔ (s.line l).drive = .float) ∧
    ((s.line l).drive ≠ .driven → (s.line l).active = false)) ∧
    ∀ p, s.complement p = true →
      (s.line (lineA p)).owner = (s.line (lineB p)).owner ∧ (s.line (lineA p)).drive = (s.line (lineB p)).drive ∧
        (s.line (lineA p)).cutEnable = (s.line (lineB p)).cutEnable

/-- R137, R139, R141: while TRIPPED no cut-enabled line is DRIVEN, while ARMED no line is CUT, and the trip record is non-empty
exactly while TRIPPED. -/
def State.cutoffSound (s : State) : Prop :=
  (s.cutoff.state = .tripped → ∀ l, (s.line l).cutEnable = true → (s.line l).drive ≠ .driven) ∧
    (s.cutoff.state = .armed → ∀ l, (s.line l).drive ≠ .cut) ∧ (s.cutoff.state = .tripped ↔ s.cutoff.trip.isSome = true)

/-- The dead-time record that goes with a pair state (R126). -/
def PairState.waitsFor : PairState → Option Side
  | .aActive => none
  | .bActive => none
  | .deadToA => some .a
  | .deadToB => some .b

/-- R114, R126: the pair state is present exactly while the pair is COMPLEMENT and DRIVEN; it fixes the logical levels, and the
dead-time record is present exactly in DEAD_TO_A and DEAD_TO_B, with at least 1 and at most the dead time's ticks. -/
def State.pairsSound (s : State) : Prop :=
  ∀ p,
    match (s.pair p).state with
    | none =>
      (s.pair p).record = none ∧ ¬(s.complement p = true ∧ (s.line (lineA p)).drive = .driven)
    | some ps =>
      s.complement p = true ∧ (s.line (lineA p)).drive = .driven ∧
        (s.line (lineA p)).active = ps.logical .a ∧ (s.line (lineB p)).active = ps.logical .b ∧
        (s.pair p).record.map DeadTimeRecord.line = ps.waitsFor ∧
        ∀ r, (s.pair p).record = some r → 1 ≤ r.remaining ∧ r.remaining ≤ (s.pair p).deadTime

/-- R109, R123: every record that targets an output line targets a DRIVEN line of the record's owner, addressed through its A line
in a COMPLEMENT pair. -/
def State.recordsSound (s : State) : Prop :=
  ∀ n r l, s.action n = some r → r.target = .output l →
    (s.line l).drive = .driven ∧ (s.line l).owner = some r.owner ∧ s.complementB l = false

/-- R36, R37, R62: an awaiting set is a subset of the destination set without a DETACHED master, is non-empty exactly while the
status is IN_SERVICE and only on a level entry, and a deadline timer runs only then. -/
def State.entriesSound (s : State) : Prop :=
  ∀ e,
    (∀ m : Master, (s.entry e).awaiting.getLsbD m.val = true →
      (s.entry e).destinations.getLsbD m.val = true ∧ s.attachment m ≠ .detached) ∧
    ((s.entry e).status = .inService ↔ (s.entry e).awaiting ≠ 0#4) ∧
    ((s.entry e).awaiting ≠ 0#4 → s.levelEntry e = true) ∧
    ((s.entry e).timer.isSome = true → (s.entry e).awaiting ≠ 0#4) ∧
    ((s.entry e).status = .held →
      s.entryAsserted e = true ∧ (s.entry e).masked = false ∧ ∀ m, s.deliverable e m = false)

end Sys2Proof.Machine
end

