-- ==== Sys2Proof/Certificates/Slice0/Obligations.lean ====
section
/-! DEFINITION. The statements for the provers, chapter by chapter. `s.carriesOut m i` says that master m's command i reaches its
block, and `s.front m` is the state the block finds, which differs from s in port m alone; a statement of the form
`exec i s = .next (t.answer m code a)` gives the whole next state: t, with the response a built at port m. -/

open Sys2Proof Sys2Proof.Machine

/-! ### The step -/

/-- Tier 1. A step takes the command at the front of the queue and carries it out on the state with the queue's rest.
-/
def Obligations.StepTakesTheFrontCommand : Prop :=
  ∀ (i : Instr) (rest : List Instr) (s : State), s.pending = i :: rest → step s = exec i (s.withPending rest)

/-- Tier 2. The model's choice (log 1): on an empty queue the part does one of the things it has under way, or one
reference period passes; with nothing under way a period passes, and while RESET is low nothing does. Under way are a
command that a port executes, a built response to place (R160), a dead time that has run (R128), the end or the firing
that comes next by R98, and a deadline that has expired (R64); the three that wait to be taken are log 3's and log 4's.
In a reference period the dividers count (R2, R6, R18), and the events they bring on join the queue, each once: a tick
while RUNNING, a service period, samples of the pins (their levels: log 7), and a sample of the SYNC input (R12).
Everything else stands. -/
def Obligations.IdlePartDoesItsOwnEventsOrAPeriod : Prop :=
  (∀ s : State, s.pending = [] →
     (s.ownEvents = [] → step s = .next (if s.resetHeld then s else s.referencePeriod)) ∧
     (s.ownEvents ≠ [] →
       (∃ i ∈ s.ownEvents, step s = exec i s.spendChoice) ∨
         step s = .next (if s.resetHeld then s.spendChoice else s.spendChoice.referencePeriod))) ∧
  (∀ (s : State) (i : Instr),
     let ends (n : Slot) : Prop :=
       s.timebase.run = .running ∧ ∃ r, s.action n = some r ∧ r.phase = .active s.timebase.count
     let fires (n : Slot) : Prop :=
       s.timebase.run = .running ∧ ∃ r, s.action n = some r ∧ r.phase = .armed ∧ r.due = s.timebase.count
     i ∈ s.ownEvents ↔
       (∃ m, (s.port m).execution = some (.taken i)) ∨
       (∃ m r, (s.port m).execution = some (.built r) ∧ i = .responsePlacement m) ∨
       (∃ p r, s.timebase.run = .running ∧ (s.pair p).record = some r ∧ r.expiring = true ∧ i = .deadTimeExpiry p) ∨
       (∃ n, ends n ∧ (∀ k, k < n → ¬ends k) ∧ i = .pulseEnd n) ∨
       (∃ n, (∀ k, ¬ends k) ∧ fires n ∧ (∀ k, k < n → ¬fires k) ∧ i = .actionFiring n) ∨
       ∃ e k, (s.entry e).timer = some k ∧ k.expiring = true ∧ i = .deadlineExpiry e) ∧
  (∀ s : State, ∃ (arbiter : List Nat) (events : List Instr),
     s.referencePeriod =
       { s with
         timebase :=
           { s.timebase with
             divider :=
               if s.timebase.run = .running then
                 if s.timebase.prescale ≤ s.timebase.divider + 1 then 0 else s.timebase.divider + 1
               else s.timebase.divider
             serviceDivider := if 5000 ≤ s.timebase.serviceDivider + 1 then 0 else s.timebase.serviceDivider + 1 }
         captures := s.referencePeriod.captures
         cutoff :=
           { s.cutoff with
             filter :=
               { s.cutoff.filter with
                 divider :=
                   if s.cutoff.filter.interval ≤ s.cutoff.filter.divider + 1 then 0 else s.cutoff.filter.divider + 1 } }
         arbiter := arbiter
         pending := s.pending ++ events } ∧
     events.Nodup ∧
     (∀ n, s.referencePeriod.capture n =
       { s.capture n with
         filter :=
           { (s.capture n).filter with
             divider :=
               if (s.capture n).filter.interval ≤ (s.capture n).filter.divider + 1 then 0
               else (s.capture n).filter.divider + 1 } }) ∧
     (∀ i, i ∈ events ↔
       (i = .tick ∧ s.timebase.run = .running ∧ s.timebase.prescale ≤ s.timebase.divider + 1) ∨
       (i = .servicePeriod ∧ 5000 ≤ s.timebase.serviceDivider + 1) ∨
       (∃ n : CapLine, i = .captureSample n s.capPins[n] ∧
         (s.capture n).filter.interval ≤ (s.capture n).filter.divider + 1) ∨
       (i = .cutoffPinSample s.cutoffPin ∧ s.cutoff.filter.interval ≤ s.cutoff.filter.divider + 1) ∨
       i = .syncSample s.syncPin))

/-! ### Reset (R156) -/

/-- Tier 1. DEVICE_RESET gives every block its device reset values and holds RESET low; every SDO and output pin is high
impedance and no attention is asserted (R156). The model's choice: the pins, the waiting commands and the open choices
are kept, and whether a chip-select is low (log 23); the announced timestamp is {0, 0} (log 3). RESET_RELEASE lets
everything start from the values it holds. A chip-select that is low at the release is taken as deasserted until it
has gone high (R156), so its period does nothing and its SDO is high impedance: one whose byte the port has seen, and,
by the model's choice (log 10), one of a set the next open choice names, any set being a choice. RESET_RELEASE with
RESET high changes nothing, the model's choice (log 5). -/
def Obligations.ResetGivesResetValuesAndReleaseStarts : Prop :=
  (∀ s : State, ∃ t, exec .deviceReset s = .next t ∧ t.resetHeld = true ∧
     t.timebase = ⟨.halted, 0, 0, 1, 0, 0, none, 0, .off, 0, .low, 0, ⟨0, 0⟩⟩ ∧
     (∀ n, t.capture n = ⟨.edge, .rising, .high, ⟨0, 1, 0, .low, 0, .low, false⟩, 1, 0, false, .opened, none, .low, 0⟩) ∧
     (∀ g, t.group g = 0) ∧
     (∀ e, t.entry e = ⟨true, 0, .all, 0, 0, false, 0, none, 0, .idle⟩) ∧
     (∀ m, t.queue m = ⟨[], 0, none, 0, false⟩) ∧
     (∀ n, t.action n = none) ∧
     (∀ l, t.line l = ⟨none, .float, .activeHigh, .float, false, false⟩) ∧
     (∀ p, t.pair p = ⟨.independent, 0, none, none⟩) ∧
     t.cutoff = ⟨.armed, none, 0, false, .low, ⟨0, 1, 0, .low, 0, .low, false⟩⟩ ∧
     t.supervisor = none ∧ t.label = none ∧
     (∀ m, t.right m = ⟨BitVec.allOnes 24, BitVec.allOnes 8, 8, true⟩) ∧
     (∀ m, t.port m = ⟨.idle, none, false, false, .detached, none, (s.port m).selected || (s.port m).stale, false, []⟩) ∧
     (∀ m, t.attention m = false) ∧ (∀ m, t.sdo m = none) ∧ (∀ l, t.electrical l = .float) ∧
     t.capPins = s.capPins ∧ t.syncPin = s.syncPin ∧ t.cutoffPin = s.cutoffPin ∧ t.arbiter = s.arbiter ∧
     t.pending = s.pending) ∧
  (∀ s : State,
     let started (arbiter : List Nat) (low : BitVec 4) : State :=
       { s with
         resetHeld := false
         arbiter := arbiter
         ports := Vector.ofFn fun m => { s.port m with stale := (s.port m).selected || low.getLsbD m.val } }
     (s.resetHeld = true →
       (∃ low, exec .resetRelease s = .next (started s.arbiter.tail low)) ∧
       ∀ low : BitVec 4,
         exec .resetRelease { s with arbiter := low.toNat :: s.arbiter } = .next (started s.arbiter low)) ∧
     (s.resetHeld = false → exec .resetRelease s = .next s ∧
       ∀ m bytes clocked first, (s.port m).stale = true →
         let t := s.setPort m { s.port m with selected := false, stale := false }
         s.sdo m = none ∧ exec (.requestFirstByte m first) s = .next s ∧
           exec (.requestFrame m bytes) s = .next t ∧ exec (.responseRead m clocked) s = .next t))

/-- Tier 2. The model's choice (log 9): while RESET is low no command and no event changes anything but RESET_RELEASE and
DEVICE_RESET. A port ignores its chip-select (R156) and only follows whether it is low (log 10). That the other blocks'
events stand still rests on their device reset values, which hold while RESET is low (R1, R17, R74, R88, R114, R133,
R145). -/
def Obligations.NothingActsWhileResetIsLow : Prop :=
  ∀ (i : Instr) (s : State), s.resetHeld = true → i ≠ .deviceReset → i ≠ .resetRelease →
    ∃ t, exec i s = .next t ∧ { t with ports := s.ports } = s ∧
      ∀ m, { t.port m with selected := (s.port m).selected, stale := (s.port m).stale } = s.port m

/-! ### Master Ports (10_master_ports.md) -/

/-- Tier 1. REQUEST_FIRST_BYTE: a first byte other than 0x80 takes a port in IDLE or RESPONSE_READY to RECEIVING and
leaves an EXECUTING one where it is (R157). The model's choice: 0x80 changes nothing, since a response read is one step
(log 11), nor does the first byte of a period that began before RESET was released (R156, log 5); the port holds that a
request frame is open (log 10). SDO is high impedance while RESET is low and while chip-select is deasserted or taken
as deasserted, and shifts out 0x00 in an open request frame (R156, R157). RESPONSE_PLACEMENT (R160): the built response
goes into the slot with the marks as its COLLIDED and REPLACED flags, the marks are cleared, and the port is
RESPONSE_READY. A port with no response to place is left as it is, the model's choice (log 5). -/
def Obligations.FirstByteAndPlacementMoveThePort : Prop :=
  (∀ (m : Master) (b : Byte) (s : State), s.resetHeld = false →
     exec (.requestFirstByte m b) s =
       .next
         (if (s.port m).stale = true ∨ b = 0x80#8 then s
          else
           s.setPort m
             { s.port m with
               selected := true
               state := if (s.port m).state = .executing then .executing else .receiving })) ∧
  (∀ (s : State) (m : Master),
     s.sdo m =
       if s.resetHeld = true ∨ (s.port m).stale = true ∨ (s.port m).selected = false then none else some 0x00#8) ∧
  (∀ (m : Master) (s : State), s.resetHeld = false →
     (∀ r, (s.port m).execution = some (.built r) →
       exec (.responsePlacement m) s =
         .next (s.setPort m
           { s.port m with
             state := .responseReady
             slot := some { r with collided := (s.port m).collided, replaced := (s.port m).replaced }
             collided := false
             replaced := false
             execution := none })) ∧
     ((∀ r, (s.port m).execution ≠ some (.built r)) → exec (.responsePlacement m) s = .next s))

/-- Tier 2. A period's bytes pass the check of R158 exactly when they are a code, a length of at most 48, as many
payload bytes and the CRC-8 over all of these, and then the payload is read back from them (R158, R173). The CRC-8 of
R172: it starts from 0xFF, takes a byte in by exclusive-or and eight shifts, and so comes to 0 over any bytes followed
by their CRC; a request's covers its code, length and payload, a response's its status, echoed code, flags byte, length
and payload. The values of the statuses, and the flags byte: bit 0 ATTN, bit 1 COLLIDED, bit 2 REPLACED, bit 3
RESTRICTED, the others 0 (R174). -/
def Obligations.FrameCheckPassesLaidOutFrames : Prop :=
  ((∀ bytes, frameProblem bytes = none ↔
     ∃ code payload, payload.length ≤ 48 ∧ bytes = requestFrameBytes code payload) ∧
   ∀ code payload, payload.length ≤ 48 → framePayload (requestFrameBytes code payload) = payload) ∧
  (crc8 [] = 0xFF#8 ∧ (∀ l b, crc8 (l ++ [b]) = crcByte (crc8 l) b) ∧
     (∀ c b, crcByte c b =
       (List.range 8).foldl (fun x _ => if x.msb then (x <<< 1) ^^^ 0x07#8 else x <<< 1) (c ^^^ b)) ∧
     crc8 [0x05#8, 0x00#8] = 0x96#8 ∧ (∀ l, crc8 (l ++ [crc8 l]) = 0x00#8) ∧
     (∀ code payload, requestFrameBytes code payload =
       [code, nat8 payload.length] ++ payload ++ [crc8 ([code, nat8 payload.length] ++ payload)]) ∧
     ∀ attn r,
       let covered :=
         [statusCode r.status, r.code, flagsByte attn r.collided r.replaced r.restricted, nat8 r.payload.length] ++
           r.payload
       replyBytes attn r = covered ++ [crc8 covered]) ∧
  ([Status.ok, .pending, .nothing, .badFrame, .badCmd, .badArg, .badState, .notAttached, .denied, .notOwner, .taken,
      .full, .late, .notFound, .inService, .inUse, .cut, .active, .once, .noMatch].map statusCode =
     [0x00#8, 0x01#8, 0x02#8, 0x10#8, 0x11#8, 0x12#8, 0x13#8, 0x14#8, 0x15#8, 0x16#8, 0x17#8, 0x18#8, 0x19#8, 0x1A#8,
       0x1B#8, 0x1C#8, 0x1D#8, 0x1E#8, 0x1F#8, 0x20#8]) ∧
  ∀ attn collided replaced restricted : Bool,
    flagsByte attn collided replaced restricted =
      (if attn then 0x01#8 else 0#8) ||| (if collided then 0x02#8 else 0#8) ||| (if replaced then 0x04#8 else 0#8) |||
        (if restricted then 0x08#8 else 0#8)

/-- Tier 2. The gate of R163: an unlisted code gives BAD_CMD; a listed code with another payload length gives BAD_ARG;
a code with its own length is a command, which the attachment state admits or refuses as the table says. A command
that the gate refuses changes nothing outside its port and is answered with the status alone (R163); one that meets
the execution of another command sets the collided mark (R159) and leaves the chip-select high, since the row stands for
its whole frame (R157, logs 2 and 10), and does nothing else. -/
def Obligations.GateAdmitsOrRefusesACommand : Prop :=
  (∀ (m : Master) (a : Attachment) (code : Byte) (payload : List Byte),
     (commandLength code = none → gate m a code payload = .inl .badCmd) ∧
     (∀ n, commandLength code = some n → payload.length ≠ n → gate m a code payload = .inl .badArg) ∧
     (commandLength code = some payload.length →
       ∃ i, decodeRequest m code payload = some i ∧ i.requester = some m ∧ commandCode i = code) ∧
     ∀ i, decodeRequest m code payload = some i →
       gate m a code payload =
         match i, a with
         | .attach _, .detached => .inr i
         | .attach _, _ => .inl .badState
         | .resume _, .detached => .inl .notAttached
         | .resume _, .attached => .inl .badState
         | .resume _, .suspended => .inr i
         | .detach _, _ => .inr i
         | .status _, _ => .inr i
         | .identify _, _ => .inr i
         | _, .detached => .inl .notAttached
         | _, .attached => .inr i
         | _, .suspended => .inl .badState) ∧
  (∀ (i : Instr) (m : Master) (s : State), i.requester = some m → s.resetHeld = false →
     (∀ st, (∀ j, (s.port m).execution ≠ some (.taken j)) → admission i (s.attachment m) = some st →
       exec i s = .next ((s.front m).answer m (commandCode i) ⟨st, [], false⟩)) ∧
     ∀ j, (s.port m).execution = some (.taken j) → j ≠ i →
       exec i s = .next (s.setPort m { s.port m with collided := true, selected := false, stale := false }))

/-- Tier 2. REQUEST_FRAME, the table of R159: what the end of a request frame does at a port, by its state and by the
check of R158. Nothing but the port changes. -/
def Obligations.RequestFrameEndsByThePortsState : Prop :=
  ∀ (m : Master) (first : Byte) (rest : List Byte) (s : State), s.resetHeld = false → (s.port m).stale = false →
    first ≠ 0x80#8 →
    exec (.requestFrame m (first :: rest)) s =
      .next (s.setPort m
        (if (s.port m).state = .executing then
          { s.port m with collided := true, selected := false, stale := false }
        else
          match frameProblem (first :: rest) with
          | some _ =>
            { s.port m with
              state := .responseReady
              slot := some ⟨.badFrame, first, false, (s.port m).slot.isSome, false, []⟩
              selected := false
              stale := false }
          | none =>
            { s.port m with
              state := .executing
              slot := none
              replaced := (s.port m).replaced || (s.port m).slot.isSome
              execution :=
                some
                  (match gate m (s.attachment m) first (framePayload (first :: rest)) with
                  | .inl st => .built ⟨st, first, false, false, false, []⟩
                  | .inr i => .taken i)
              selected := false
              stale := false }))

/-- Tier 2. RESPONSE_READ, the table of R161: the reply by the port's state, with the echoed code of the command in
execution for PENDING, the ATTN flag as it stands (R162), and the slot emptied when the whole reply was shifted out.
SDO shifts out 0x00 while the 0x80 arrives, then as many bytes as are clocked: the reply, and 0x00 after it (R157,
R161). That the port holds these bytes, and that a read is one step, is log 10's. -/
def Obligations.ResponseReadRepliesByThePortsState : Prop :=
  ∀ (m : Master) (clocked : Nat) (s : State), s.resetHeld = false → (s.port m).stale = false →
    let out (r : Response) : List Byte :=
      0x00#8 :: (replyBytes (s.attention m) r ++ List.replicate clocked 0x00#8).take clocked
    (∀ r, (s.port m).state = .responseReady → (s.port m).slot = some r →
      exec (.responseRead m clocked) s =
        .next (s.setPort m
          { s.port m with
            slot := if (replyBytes (s.attention m) r).length ≤ clocked then none else some r
            state := if (replyBytes (s.attention m) r).length ≤ clocked then .idle else .responseReady
            shifted := out r
            selected := false
            stale := false })) ∧
    (∀ x, (s.port m).state = .executing → (s.port m).execution = some x →
      exec (.responseRead m clocked) s =
        .next (s.setPort m
          { s.port m with
            shifted :=
              out
                ⟨.pending, match x with | .taken i => commandCode i | .built r => r.code, false, false, false, []⟩
            selected := false
            stale := false })) ∧
    ((s.port m).state = .idle →
      exec (.responseRead m clocked) s =
        .next (s.setPort m
          { s.port m with
            shifted := out ⟨.nothing, 0x00#8, false, false, false, []⟩
            selected := false
            stale := false }))

/-- Tier 2. ATTACH (R164): ATTACHED, with the queue emptied and the attention enable on; then, in no fixed order, the
attempts of the HELD entries that name the master (R70) and E23 (R168). RESUME (R166): ATTACHED with the queue as it
was left; then, in no fixed order, the attempts of the HELD entries that name the master (R69) and E23 (R168). That
RESUME's depth and overflow indication are taken after these is the model's choice (log 24). That each hand-off is
taken in full is the model's choice (log 26). -/
def Obligations.AttachAndResumeBringAMasterIn : Prop :=
  (∀ (m : Master) (s : State), s.carriesOut m (.attach m) = true →
     ∃ t, exec (.attach m) s =
         .next (t.answer m 0x01#8
           (.ok ([1#8, nat8 m.val, masterByte s.supervisor] ++ timestampBytes s.now))) ∧
       (((s.front m).setAttachment m .attached).setQueue m ⟨[], 0, none, 0, true⟩).afterAll
         ((((List.finRange 24).filter fun e =>
             (s.entry e).status == .held && (s.entry e).destinations.getLsbD m.val).map fun e u => u.attempt e s.now) ++
           [fun u => u.edgeEvent 23 s.now (.attachChange m .attached)]) t) ∧
  (∀ (m : Master) (s : State), s.carriesOut m (.resume m) = true →
     ∃ t, exec (.resume m) s =
         .next (t.answer m 0x04#8
           (.ok ([1#8, nat8 (t.depth m), flagCode (t.queue m).overflowing] ++ timestampBytes s.now))) ∧
       ((s.front m).setAttachment m .attached).afterAll
         ((((List.finRange 24).filter fun e =>
             (s.entry e).status == .held && (s.entry e).destinations.getLsbD m.val).map fun e u => u.attempt e s.now) ++
           [fun u => u.edgeEvent 23 s.now (.attachChange m .attached)]) t)

/-- Tier 2. SUSPEND (R165): SUSPENDED, with the queue, the entries' awaiting sets, the lines and the records as they
stand; E23 fires and does not reach the master itself, whose attention is deasserted (R86). -/
def Obligations.SuspendFreezesAMaster : Prop :=
  ∀ (m : Master) (s : State), s.carriesOut m (.suspend m) = true →
    ∃ t, exec (.suspend m) s =
        .next (t.answer m 0x03#8
          (.ok ([2#8, nat8 (s.depth m), flagCode (s.queue m).overflowing] ++ timestampBytes s.now))) ∧
      t = ((s.front m).setAttachment m .suspended).edgeEvent 23 s.now (.attachChange m .suspended) ∧
      t.queue m = s.queue m ∧ t.attention m = false ∧
      (∀ e, (t.entry e).awaiting = (s.entry e).awaiting ∧ (t.entry e).timer = (s.entry e).timer) ∧
      t.lines = s.lines ∧ t.actions = s.actions

/-- Tier 2. DETACH (R167): the attachment state first; the queue emptied with its enable kept (R87), the master's
records removed without a notice (R112), its lines released to FLOAT with their pairs whole (R131); then, in no fixed
order, the entries that lose the master from their awaiting sets (R71), the re-arm check if a line left CUT (R139),
and E23. From DETACHED it changes nothing. That the response's set of released lines holds both lines of a pair is
DEDUCED (log 14). That each hand-off is taken in full is the model's choice (log 26). -/
def Obligations.DetachTearsAMasterDown : Prop :=
  ∀ (m : Master) (s : State), s.carriesOut m (.detach m) = true →
    (s.attachment m = .detached →
      exec (.detach m) s =
        .next ((s.front m).answer m 0x02#8 (.ok ([0#8, 0#8, 0#8] ++ timestampBytes s.now)))) ∧
    (s.attachment m ≠ .detached →
      ∃ t, exec (.detach m) s =
          .next (t.answer m 0x02#8
            (.ok ([attachmentCode (s.attachment m), s.wholePairs (s.ownedLines m),
              nat8 (s.countRecords fun r => r.owner == m)] ++ timestampBytes s.now))) ∧
        (((((s.front m).setAttachment m .detached).setQueue m
          { s.queue m with notices := [], losses := 0, firstLoss := none, lostSources := 0 }).dropRecords
            fun r => r.owner == m).releaseLines (s.wholePairs (s.ownedLines m))).afterAll
          ((((List.finRange 24).filter fun e => (s.entry e).awaiting.getLsbD m.val).map fun e u =>
              u.leaveAwaiting m s.now e) ++
            (if s.anyCut (s.wholePairs (s.ownedLines m)) then [fun u => u.rearmCheck s.now] else []) ++
            [fun u => u.edgeEvent 23 s.now (.attachChange m .detached)]) t)

/-- Tier 1. STATUS (R169) and IDENTIFY (R155) are taken in every attachment state and change nothing; their payloads
in bytes. TB_READ (R16, R182): one snapshot of the Timebase; nothing changes. CUT_READ (R143, R181): one snapshot of
the Unit; nothing changes. A number's bytes come least significant first, and a timestamp is its epoch and its count
(R171); the enumerations have the values of R175. -/
def Obligations.StatusAndUnitReadsAnswer : Prop :=
  (∀ (m : Master) (s : State),
     (s.carriesOut m (.status m) = true →
       exec (.status m) s =
         .next ((s.front m).answer m 0x05#8
           (.ok [attachmentCode (s.attachment m), nat8 (s.queue m).notices.length, flagCode ((s.queue m).losses != 0),
             masterByte s.supervisor, runCode s.timebase.run, cutStateCode s.cutoff.state]))) ∧
     (s.carriesOut m (.identify m) = true →
       exec (.identify m) s =
         .next ((s.front m).answer m 0x06#8
           (.ok ([0x40#8, 0x31#8, 0x01#8, nat8 m.val, masterByte s.supervisor, flagCode s.label.isSome] ++
             (match s.label with
             | some l => l.toList
             | none => List.replicate 16 0x00#8)))))) ∧
  (∀ (m : Master) (s : State), s.carriesOut m (.tbRead m) = true →
     exec (.tbRead m) s =
       .next ((s.front m).answer m 0x14#8
         (.ok ([runCode s.timebase.run, s.timebase.epoch] ++ bytes32 s.timebase.count ++ nat16 s.timebase.prescale ++
           nat24 s.timebase.framePeriod ++ stagedPeriodBytes s.timebase.staged ++ nat24 s.timebase.phase ++
           [syncModeCode s.timebase.syncMode] ++ bytes32 s.timebase.resyncValue ++
           [levelCode s.timebase.syncSample])))) ∧
  (∀ (m : Master) (s : State), s.carriesOut m (.cutRead m) = true →
     exec (.cutRead m) s =
       .next ((s.front m).answer m 0x43#8
         (.ok ([cutStateCode s.cutoff.state] ++
           (match s.cutoff.trip with
           | none => [0xFF#8, 0#8, 0#8, 0#8, 0#8, 0#8, 0#8, 0#8, 0#8]
           | some r =>
             [cutSourceCode r.first, r.time.epoch] ++ bytes32 r.time.count ++ bytes24 (r.seen.setWidth 24)) ++
           bytes24 (s.cutoff.asserted.setWidth 24) ++
           [flagCode s.cutoff.pinEnable, levelCode s.cutoff.pinActive, nat8 s.cutoff.filter.length] ++
           nat16 s.cutoff.filter.interval ++
           [levelCode s.cutoff.filter.sample, nat8 s.cutoff.filter.run, levelCode s.cutoff.filter.level] ++
           (List.finRange 8).map (fun l =>
             match (s.line l).drive, (s.line l).owner with
             | .cut, some h => nat8 h.val
             | _, _ => 0xFF#8) ++
           timestampBytes s.now)))) ∧
  ((∀ x : BitVec 16, bytes16 x = [x.extractLsb' 0 8, x.extractLsb' 8 8]) ∧
   (∀ x : BitVec 24, bytes24 x = [x.extractLsb' 0 8, x.extractLsb' 8 8, x.extractLsb' 16 8]) ∧
   (∀ x : BitVec 32, bytes32 x = [x.extractLsb' 0 8, x.extractLsb' 8 8, x.extractLsb' 16 8, x.extractLsb' 24 8]) ∧
   (∀ t : Timestamp, timestampBytes t = t.epoch :: bytes32 t.count)) ∧
  ([Attachment.detached, .attached, .suspended].map attachmentCode = [0#8, 1#8, 2#8] ∧
   [RunState.halted, .running].map runCode = [0#8, 1#8] ∧ [SyncMode.off, .rising, .falling].map syncModeCode = [0#8, 1#8, 2#8] ∧
   [CaptureMode.edge, .level].map captureModeCode = [0#8, 1#8] ∧
   [EdgeSelect.rising, .falling, .both].map edgeSelectCode = [0#8, 1#8, 2#8] ∧ [Level.low, .high].map levelCode = [0#8, 1#8] ∧
   [Gate.closed, .opened].map gateCode = [0#8, 1#8] ∧ [EntryStatus.idle, .inService, .held].map entryStatusCode = [0#8, 1#8, 2#8] ∧
   [Drive.float, .disabled, .driven, .cut].map driveCode = [0#8, 1#8, 2#8, 3#8] ∧
   [Polarity.activeHigh, .activeLow].map polarityCode = [0#8, 1#8] ∧
   [Electrical.low, .high, .float].map electricalCode = [0#8, 1#8, 2#8] ∧
   [PairMode.independent, .complement].map pairModeCode = [0#8, 1#8] ∧
   [none, some .aActive, some .bActive, some .deadToA, some .deadToB].map pairStateCode = [0#8, 1#8, 2#8, 3#8, 4#8] ∧
   [CutState.armed, .tripped].map cutStateCode = [0#8, 1#8] ∧ [false, true].map flagCode = [0#8, 1#8] ∧
   (∀ n : CapLine, cutSourceCode (.entry n) = nat8 n.val) ∧ cutSourceCode .pin = 0x10#8 ∧
   (∀ m : Master, cutSourceCode (.force m) = nat8 (0x11 + m.val)) ∧
   masterByte none = 0xFF#8 ∧ ∀ m : Master, masterByte (some m) = nat8 m.val)

/-! ### Timebase (01_timebase.md) -/

/-- Tier 1. TB_RUN (R7) and TB_HOLD (R8): without the timebase right DENIED; else the run state, with the tick divider
cleared when it changes, and the response. Everything else stands, the count and the frame included, but that TB_HOLD
first takes what the last announced count has left (log 3), so that nothing fires, ends or expires while HALTED (R94,
R96, R106, R128). -/
def Obligations.TbRunAndTbHoldSetTheRunState : Prop :=
  ∀ (m : Master) (s : State),
    (s.carriesOut m (.tbRun m) = true →
      exec (.tbRun m) s =
        if (s.right m).timebase then
          .next (((s.front m).setTimebase
            { s.timebase with
              run := .running
              divider := if s.timebase.run = .halted then 0 else s.timebase.divider }).answer m 0x11#8
            (.ok ([1#8] ++ timestampBytes ⟨s.timebase.epoch, s.timebase.count⟩)))
        else .next ((s.front m).answer m 0x11#8 (.refusal .denied))) ∧
    (s.carriesOut m (.tbHold m) = true →
      exec (.tbHold m) s =
        if (s.right m).timebase then
          .next (((s.front m).settle.setTimebase
            { s.timebase with
              run := .halted
              divider := if s.timebase.run = .running then 0 else s.timebase.divider }).answer m 0x12#8
            (.ok ([0#8] ++ timestampBytes ⟨s.timebase.epoch, s.timebase.count⟩)))
        else .next ((s.front m).answer m 0x12#8 (.refusal .denied)))

/-- Tier 2. TB_CONFIG: the checks of R9 in order, and the settings R10 and R11 give, in one step. That a select byte
above 15 is out of range is read from R171 (log 17). -/
def Obligations.TbConfigWritesTheSelectedSettings : Prop :=
  ∀ (m : Master) (f : TbFields) (s : State), s.carriesOut m (.tbConfig m f) = true →
    exec (.tbConfig m f) s =
      if (s.right m).timebase = false then .next ((s.front m).answer m 0x10#8 (.refusal .denied))
      else if f.select.toNat = 0 ∨ 16 ≤ f.select.toNat ∨
          (f.select.getLsbD 0 = true ∧ ¬(1 ≤ f.prescale.toNat ∧ f.prescale.toNat ≤ 256)) ∨
          (f.select.getLsbD 1 = true ∧ f.framePeriod.toNat = 1) ∨
          (f.select.getLsbD 2 = true ∧ 3 ≤ f.syncMode.toNat) then
        .next ((s.front m).answer m 0x10#8 (.refusal .badArg))
      else if f.select.getLsbD 0 = true ∧ s.timebase.run = .running then
        .next ((s.front m).answer m 0x10#8 (.refusal .badState))
      else
        let t : Timebase :=
          { s.timebase with
            prescale := if f.select.getLsbD 0 then f.prescale.toNat else s.timebase.prescale
            framePeriod :=
              if f.select.getLsbD 1 ∧ s.timebase.framePeriod = 0 then f.framePeriod.toNat else s.timebase.framePeriod
            phase := if f.select.getLsbD 1 ∧ s.timebase.framePeriod = 0 then 0 else s.timebase.phase
            staged :=
              if f.select.getLsbD 1 ∧ s.timebase.framePeriod ≠ 0 then some f.framePeriod.toNat else s.timebase.staged
            syncMode :=
              if f.select.getLsbD 2 then
                if f.syncMode = 0#8 then .off else if f.syncMode = 1#8 then .rising else .falling
              else s.timebase.syncMode
            resyncValue := if f.select.getLsbD 3 then f.resyncValue else s.timebase.resyncValue }
        .next (((s.front m).setTimebase t).answer m 0x10#8 (.ok (nat24 t.framePeriod ++ stagedPeriodBytes t.staged)))

/-- Tier 2. A resync (R13): the count becomes the resync value, the phase 0 and the epoch one more; every due time and
end time moves by the same amount (R107); E21 fires with the new timestamp and the old count. The dead-time records
and the deadline timers stand, but for what E21's delivery changes: its own rotation pointer and the queues it
reaches. TB_RESYNC (R14): without the timebase right DENIED; else one resync in either run state, and a response with
the count before it and the timestamp after it. SYNC_SAMPLE and SYNC_EDGE (R12): each sample replaces the SYNC sample,
and one that shows a rising change under RISING or a falling one under FALLING starts one resync, in either run state.
SYNC_EDGE is such a sample; a sample that shows no qualifying edge is no such event and changes nothing (log 5). The
level on the pin is the sample's (log 7). -/
def Obligations.ResyncReloadsTheCount : Prop :=
  (∀ s : State,
     s.resync.timebase =
       { s.timebase with count := s.timebase.resyncValue, phase := 0, epoch := s.timebase.epoch + 1 } ∧
     (∀ n, s.resync.action n =
       match s.action n with
       | none => none
       | some r =>
         some
           { r with
             due := r.due + (s.timebase.resyncValue - s.timebase.count)
             phase :=
               match r.phase with
               | .armed => .armed
               | .active stop => .active (stop + (s.timebase.resyncValue - s.timebase.count)) }) ∧
     ∃ u : State, u.timebase = s.resync.timebase ∧ u.actions = s.resync.actions ∧
       { u with timebase := s.timebase, actions := s.actions } = s ∧
       s.resync =
         u.edgeEvent 21 ⟨s.timebase.epoch + 1, s.timebase.resyncValue⟩ (.resync s.timebase.count)) ∧
  (∀ (m : Master) (s : State), s.carriesOut m (.tbResync m) = true →
     exec (.tbResync m) s =
       if (s.right m).timebase then
         .next ((s.front m).resync.answer m 0x13#8
           (.ok (bytes32 s.timebase.count ++ timestampBytes ⟨s.timebase.epoch + 1, s.timebase.resyncValue⟩)))
       else .next ((s.front m).answer m 0x13#8 (.refusal .denied))) ∧
  (∀ (x : Level) (s : State), s.resetHeld = false →
     let u : State := { s with syncPin := x, timebase := { s.timebase with syncSample := x } }
     let edge : Prop := x ≠ s.timebase.syncSample ∧
       ((s.timebase.syncMode = .rising ∧ x = .high) ∨ (s.timebase.syncMode = .falling ∧ x = .low))
     (edge → exec (.syncSample x) s = .next u.resync ∧ exec (.syncEdge x) s = .next u.resync) ∧
       (¬edge → exec (.syncSample x) s = .next u ∧ exec (.syncEdge x) s = .next s))

/-- Tier 2. TICK (R3, R4): while HALTED none occurs. While RUNNING the count goes up by 1 modulo 2^32 with the epoch
as it is; with framing on the phase goes up by 1, and a phase that reaches the frame period becomes 0, takes a staged
period and fires E20 with this tick's timestamp; then the announced count reaches the dead-time records (R128). The
model's choice (log 3): what the last announced count had left is taken first: the dead times that have run, the pulse
ends in ascending slot order, then the firings in ascending slot order (R98), each as its own event. In a settled
state, and while HALTED, nothing is left. That E20 fires at the TICK, ahead of the firings and ends its count brings,
is the model's choice too (log 27). -/
def Obligations.TickAdvancesCountAndPhase : Prop :=
  ∀ s : State, s.resetHeld = false →
    (s.settled = true → s.settle = s) ∧
    s.settle =
      ((List.finRange 4).map Instr.deadTimeExpiry ++ (List.finRange 32).map Instr.pulseEnd ++
          (List.finRange 32).map Instr.actionFiring).foldl
        (fun u i => match exec i u with | .next v => v | _ => u) s ∧
    (s.timebase.run = .halted → s.settle = s ∧ exec .tick s = .next s) ∧
    (s.timebase.run = .running →
      let u := s.settle
      let wraps : Prop := u.timebase.framePeriod ≠ 0 ∧ u.timebase.phase + 1 = u.timebase.framePeriod
      ∃ v w : State,
        { v with timebase := u.timebase } = u ∧
        (wraps → v.timebase =
          { u.timebase with
            divider := 0
            count := u.timebase.count + 1
            phase := 0
            framePeriod := u.timebase.staged.getD u.timebase.framePeriod
            staged := none
            announced := ⟨u.timebase.epoch, u.timebase.count + 1⟩ }) ∧
        (¬wraps → v.timebase =
          { u.timebase with
            divider := 0
            count := u.timebase.count + 1
            phase := if u.timebase.framePeriod = 0 then 0 else u.timebase.phase + 1
            announced := ⟨u.timebase.epoch, u.timebase.count + 1⟩ }) ∧
        (wraps → w = v.edgeEvent 20 ⟨u.timebase.epoch, u.timebase.count + 1⟩ .frame) ∧ (¬wraps → w = v) ∧
        exec .tick s = .next w.tickDeadTimes)

/-- Tier 2. What an announced tick does to a dead-time record (R128): 2 or more decreases by 1; at 1 the dead time has
run, and DEAD_TIME_EXPIRY activates the line (log 3), only while RUNNING. A pair whose dead time has not run has no
expiry, and DEAD_TIME_EXPIRY then changes nothing, the model's choice (log 5). -/
def Obligations.DeadTimeRunsOutTickByTick : Prop :=
  (∀ (s : State) (p : PairIx), { s.tickDeadTimes with pairs := s.pairs } = s ∧
    s.tickDeadTimes.pair p =
      { s.pair p with
        record :=
          match (s.pair p).record with
          | none => none
          | some r =>
            some
              (if 2 ≤ r.remaining then { r with remaining := r.remaining - 1 } else { r with expiring := true }) }) ∧
  ∀ (p : PairIx) (s : State), s.resetHeld = false →
    exec (.deadTimeExpiry p) s =
      .next
        (match s.timebase.run, (s.pair p).record with
        | .running, some ⟨.a, _, true⟩ => s.setPair p { s.pair p with state := some .aActive, record := none }
        | .running, some ⟨.b, _, true⟩ => s.setPair p { s.pair p with state := some .bActive, record := none }
        | _, _ => s)

/-! ### Capture lines and groups (02_capture_lines_and_groups.md) -/

/-- Tier 2. CAPTURE_SAMPLE (R19, R17): the first sample since reset is loaded into the qualified level; a sample at
the qualified level returns the run count to 0; one that differs while the run count is below the filter length counts
up; one that differs after that completes qualification and is CAPTURE_QUALIFICATION. The sample divider starts again
at 0 (R18). A first sample that leaves the line deasserted takes its HELD entry to IDLE (log 12). The model's choice:
the level on the pin is the sample's (log 7), and a sample that does not complete qualification is no
CAPTURE_QUALIFICATION, which then changes nothing (log 5). -/
def Obligations.CaptureSampleFilters : Prop :=
  ∀ (n : CapLine) (x : Level) (s : State), s.resetHeld = false →
    let c := s.capture n
    let u (f : Filter) : State := { s.setCapture n { c with filter := f } with capPins := s.capPins.set n x }
    (c.filter.loaded = true → x = c.filter.level →
      exec (.captureSample n x) s = .next (u { c.filter with divider := 0, sample := x, run := 0 })) ∧
    (c.filter.loaded = true → x ≠ c.filter.level → c.filter.run < c.filter.length →
      exec (.captureSample n x) s = .next (u { c.filter with divider := 0, sample := x, run := c.filter.run + 1 })) ∧
    (c.filter.loaded = true → x ≠ c.filter.level → c.filter.length ≤ c.filter.run →
      exec (.captureSample n x) s = exec (.captureQualification n x) s) ∧
    (c.filter.loaded = false →
      let v := u { c.filter with divider := 0, sample := x, level := x, run := 0, loaded := true }
      exec (.captureSample n x) s =
        .next
          (if (s.entry (capEntry n)).status = .held ∧ ¬(c.mode = .level ∧ x = c.activeLevel) then
            v.setEntry (capEntry n) { s.entry (capEntry n) with status := .idle }
          else v)) ∧
    ((c.filter.loaded = false ∨ x = c.filter.level ∨ c.filter.run < c.filter.length) →
      exec (.captureQualification n x) s = .next s)

/-- Tier 2. CAPTURE_QUALIFICATION at its line: the filter takes the new level (R19); in LEVEL mode the change is an
event (R25); in EDGE mode a change that does not match, or meets a CLOSED gate with the enable on, leaves the line as
it is (R22); else the prescaler counts, and at the prescale the event empties it and closes an enabled gate (R23,
R24). An event updates the last-capture record (R27). No other line changes, and no group mask, timebase or Rights
Map. -/
def Obligations.QualifiedChangePassesTheLine : Prop :=
  ∀ (n : CapLine) (x : Level) (s : State), s.resetHeld = false → (s.capture n).filter.loaded = true →
    x ≠ (s.capture n).filter.level → (s.capture n).filter.length ≤ (s.capture n).filter.run →
    ∃ t, exec (.captureQualification n x) s = .next t ∧
      (let c := s.capture n
       let d : CaptureLine :=
         { c with filter := { c.filter with divider := 0, sample := x, level := x, run := 0 } }
       let stamped (k : CaptureLine) : CaptureLine :=
         { k with
           lastTime := some ⟨s.timebase.epoch, s.timebase.count⟩
           lastLevel := x
           eventCount := c.eventCount + 1 }
       let matching : Prop :=
         c.edgeSelect = .both ∨ (c.edgeSelect = .rising ∧ x = .high) ∨ (c.edgeSelect = .falling ∧ x = .low)
       (c.mode = .level → t.capture n = stamped d) ∧
       (c.mode = .edge → ¬matching → t.capture n = d) ∧
       (c.mode = .edge → matching → c.gateEnable = true → c.gate = .closed → t.capture n = d) ∧
       (c.mode = .edge → matching → (c.gateEnable = true → c.gate = .opened) →
         (c.prescalerCount + 1 < c.prescale → t.capture n = { d with prescalerCount := c.prescalerCount + 1 }) ∧
         (c.prescale ≤ c.prescalerCount + 1 →
           t.capture n =
             stamped { d with prescalerCount := 0, gate := if c.gateEnable then .closed else c.gate }))) ∧
      (∀ k, k ≠ n → t.capture k = s.capture k) ∧
      t.groups = s.groups ∧ t.timebase = s.timebase ∧ t.rights = s.rights ∧ t.ports = s.ports ∧
      t.supervisor = s.supervisor ∧ t.label = s.label

/-- Tier 2. Where a qualified change is handed on (R21, R26, R32), in no fixed order (R79, log 6): for each group
whose mask holds the line one group event to its entry, with the line and the snapshot of all sixteen levels just
after the change; and the capture event, if one is raised, to the line's entry and, by the flag, to the Cutoff Unit.
In LEVEL mode the event is an assertion or a deassertion by the active level (R25); in EDGE mode it is the edge count
at the prescale, and none for a change that does not match, meets a CLOSED gate with the enable on, or leaves the
prescaler below the prescale (R22 to R24). The model's choice: the level on the pin is the sample's (log 7). That each
hand-off is taken in full, and all in the step of the timestamp, is the model's choice (logs 26 and 27). -/
def Obligations.QualifiedChangeIsHandedOn : Prop :=
  ∀ (n : CapLine) (x : Level) (s : State), s.resetHeld = false → (s.capture n).filter.loaded = true →
    x ≠ (s.capture n).filter.level → (s.capture n).filter.length ≤ (s.capture n).filter.run →
    let c := s.capture n
    let passes : Prop :=
      (c.edgeSelect = .both ∨ (c.edgeSelect = .rising ∧ x = .high) ∨ (c.edgeSelect = .falling ∧ x = .low)) ∧
        (c.gateEnable = true → c.gate = .opened) ∧ c.prescale ≤ c.prescalerCount + 1
    ∃ (t : State) (ev : Option CaptureEvent) (snapshot : BitVec 16), exec (.captureQualification n x) s = .next t ∧
      (c.mode = .level → ev = some (if x = c.activeLevel then .assertion else .deassertion)) ∧
      (c.mode = .edge → passes → ev = some (.edge (c.prescalerCount + 1))) ∧ (c.mode = .edge → ¬passes → ev = none) ∧
      (∀ k : CapLine, snapshot.getLsbD k.val = decide ((if k = n then x else (s.capture k).filter.level) = .high)) ∧
      ({ s.setCapture n (t.capture n) with capPins := s.capPins.set n x } : State).afterAll
        ((((List.finRange 4).filter fun g => (s.group g).getLsbD n.val).map fun g u =>
            u.edgeEvent ⟨16 + g.val, by omega⟩ s.now (.groupEvent snapshot n)) ++
          match ev with
          | none => []
          | some (.edge k) =>
            (fun u : State => u.edgeEvent (capEntry n) s.now (.edgeEvent k)) ::
              if (s.entry (capEntry n)).cutoffSource then [fun u => u.momentary (.entry n) s.now] else []
          | some .assertion =>
            (fun u : State => u.assertion (capEntry n) s.now) ::
              if (s.entry (capEntry n)).cutoffSource then [fun u => u.joinSource (.entry n) s.now] else []
          | some .deassertion =>
            (fun u : State => u.deassertion (capEntry n)) ::
              if (s.entry (capEntry n)).cutoffSource then [fun u => u.leaveSource (.entry n) s.now] else []) t

/-- Tier 2. CAP_CONFIG: the checks of R28 in order, and its response. What a CAP_CONFIG that passes does (R29, R111):
all fields in one step; the filter's counts kept; the prescaler count 0 when the mode changes, or the edge select in
EDGE mode; the gate OPEN when its enable is written off; an assertion or deassertion when the asserted condition
differs before and after; the line's GATE_OPEN records removed unless it stays in EDGE mode with gate enable on. That
each hand-off is taken in full is the model's choice (log 26). -/
def Obligations.CapConfigChecksAndWritesTheLine : Prop :=
  (∀ (m : Master) (f : CapFields) (s : State), s.carriesOut m (.capConfig m f) = true →
     (16 ≤ f.line.toNat → exec (.capConfig m f) s = .next ((s.front m).answer m 0x18#8 (.refusal .badArg))) ∧
     ∀ n : CapLine, f.line.toNat = n.val →
       let inRange : Prop :=
         f.mode.toNat ≤ 1 ∧ f.edgeSelect.toNat ≤ 2 ∧ f.activeLevel.toNat ≤ 1 ∧ f.filterLength.toNat ≤ 15 ∧
           (f.interval.toNat = 1 ∨ f.interval.toNat = 8 ∨ f.interval.toNat = 64 ∨ f.interval.toNat = 512) ∧
           1 ≤ f.prescale.toNat ∧ f.prescale.toNat ≤ 256 ∧ f.gateEnable.toNat ≤ 1
       ((s.right m).entries.getLsbD n.val = false →
         exec (.capConfig m f) s = .next ((s.front m).answer m 0x18#8 (.refusal .denied))) ∧
       ((s.right m).entries.getLsbD n.val = true → ¬inRange →
         exec (.capConfig m f) s = .next ((s.front m).answer m 0x18#8 (.refusal .badArg))) ∧
       ((s.right m).entries.getLsbD n.val = true → inRange → (s.entry (capEntry n)).awaiting ≠ 0#4 →
         exec (.capConfig m f) s = .next ((s.front m).answer m 0x18#8 (.refusal .inService))) ∧
       ((s.right m).entries.getLsbD n.val = true → inRange → (s.entry (capEntry n)).awaiting = 0#4 →
         ∃ t : State, exec (.capConfig m f) s =
           .next (t.answer m 0x18#8
             (.ok ([f.line, f.mode, f.edgeSelect, f.activeLevel, f.filterLength] ++ bytes16 f.interval ++
               bytes16 f.prescale ++ [f.gateEnable] ++
               [levelCode (s.capture n).filter.level,
                 flagCode (f.mode == 1#8 && levelCode (s.capture n).filter.level == f.activeLevel)]))))) ∧
  (∀ (m : Master) (f : CapFields) (s : State) (n : CapLine) (x : CaptureSettings),
     s.carriesOut m (.capConfig m f) = true → f.line.toNat = n.val → (s.right m).entries.getLsbD n.val = true →
     captureSettingsOf f = some x → (s.entry (capEntry n)).awaiting = 0#4 →
     let c := s.capture n
     let d : CaptureLine :=
       { c with
         mode := x.mode
         edgeSelect := x.edgeSelect
         activeLevel := x.activeLevel
         filter := { c.filter with length := x.length, interval := x.interval }
         prescale := x.prescale
         prescalerCount :=
           if c.mode ≠ x.mode ∨ (c.mode = .edge ∧ c.edgeSelect ≠ x.edgeSelect) then 0 else c.prescalerCount
         gateEnable := x.gateEnable
         gate := if x.gateEnable then c.gate else .opened }
     ∃ (t : State) (a : Answer), exec (.capConfig m f) s = .next (t.answer m 0x18#8 a) ∧
       ((s.front m).setCapture n
         (if c.asserted = d.asserted then d
          else
           { d with
             lastTime := some ⟨s.timebase.epoch, s.timebase.count⟩
             lastLevel := c.filter.level
             eventCount := c.eventCount + 1 })).afterAll
         ((match x.mode, x.gateEnable with
           | .edge, true => []
           | .edge, false =>
             if s.countRecords (fun r => r.target == .capture n) = 0 then []
             else [fun u => u.cancelRecords (fun r => r.target == .capture n) .released s.now]
           | .level, _ =>
             if s.countRecords (fun r => r.target == .capture n) = 0 then []
             else [fun u => u.cancelRecords (fun r => r.target == .capture n) .detachedTarget s.now]) ++
           (if c.asserted = d.asserted then []
            else if d.asserted then
             (fun u : State => u.assertion (capEntry n) s.now) ::
               if (s.entry (capEntry n)).cutoffSource then [fun u => u.joinSource (.entry n) s.now] else []
            else
             (fun u : State => u.deassertion (capEntry n)) ::
               if (s.entry (capEntry n)).cutoffSource then [fun u => u.leaveSource (.entry n) s.now] else [])) t)

/-- Tier 1. CAP_GATE (R30) and GROUP_CONFIG (R33): their checks in order, their one change, their responses. The snapshot
holds bit n for CLn, 1 for a high qualified level (R32). -/
def Obligations.CapGateAndGroupConfigAct : Prop :=
  (∀ (m : Master) (line : Byte) (s : State), s.carriesOut m (.capGate m line) = true →
    (16 ≤ line.toNat → exec (.capGate m line) s = .next ((s.front m).answer m 0x19#8 (.refusal .badArg))) ∧
    ∀ n : CapLine, line.toNat = n.val →
      exec (.capGate m line) s =
        if (s.right m).entries.getLsbD n.val = false then .next ((s.front m).answer m 0x19#8 (.refusal .denied))
        else
          .next (((s.front m).setCapture n { s.capture n with gate := .opened }).answer m 0x19#8
            (.ok [flagCode (s.capture n).gateEnable, gateCode (s.capture n).gate,
              nat8 (s.capture n).prescalerCount]))) ∧
  (∀ (s : State) (n : CapLine), s.snapshot.getLsbD n.val = decide ((s.capture n).filter.level = .high)) ∧
  ∀ (m : Master) (group : Byte) (mask : BitVec 16) (s : State), s.carriesOut m (.groupConfig m group mask) = true →
    (4 ≤ group.toNat → exec (.groupConfig m group mask) s = .next ((s.front m).answer m 0x1B#8 (.refusal .badArg))) ∧
    ∀ g : GroupIx, group.toNat = g.val →
      exec (.groupConfig m group mask) s =
        if (s.right m).entries.getLsbD (16 + g.val) = false then
          .next ((s.front m).answer m 0x1B#8 (.refusal .denied))
        else
          .next (((s.front m).setGroup g mask).answer m 0x1B#8 (.ok (bytes16 mask ++ bytes16 s.snapshot)))

/-- Tier 1. CAP_READ (R31, R182): a line number outside 0..15 gives BAD_ARG, else one snapshot; nothing changes.
LINE_READ (R122, R180): one snapshot of the line and its pair, open to every master that is ATTACHED; nothing changes.
-/
def Obligations.CaptureAndOutputLineReadsAnswer : Prop :=
  (∀ (m : Master) (line : Byte) (s : State), s.carriesOut m (.capRead m line) = true →
     (16 ≤ line.toNat → exec (.capRead m line) s = .next ((s.front m).answer m 0x1A#8 (.refusal .badArg))) ∧
     ∀ n : CapLine, line.toNat = n.val →
       let c := s.capture n
       exec (.capRead m line) s =
         .next ((s.front m).answer m 0x1A#8
           (.ok ([nat8 n.val, captureModeCode c.mode, edgeSelectCode c.edgeSelect, levelCode c.activeLevel,
               nat8 c.filter.length] ++ nat16 c.filter.interval ++ nat16 c.prescale ++ [flagCode c.gateEnable] ++
             [levelCode c.filter.sample, nat8 c.filter.run, levelCode c.filter.level, flagCode c.asserted,
               nat8 c.prescalerCount, gateCode c.gate] ++
             (match c.lastTime with
             | some t => [1#8, t.epoch] ++ bytes32 t.count
             | none => List.replicate 6 0#8) ++ [levelCode c.lastLevel] ++ bytes16 c.eventCount ++
             [(s.groupsOf n).setWidth 8]))) ∧
       ∀ g : GroupIx, (s.groupsOf n).getLsbD g.val = (s.group g).getLsbD n.val) ∧
  (∀ (m : Master) (line : Byte) (l : OutLine) (s : State), s.carriesOut m (.lineRead m line) = true →
     line.toNat = l.val →
     exec (.lineRead m line) s =
       .next ((s.front m).answer m 0x3D#8
         (.ok ([line, driveCode (s.line l).drive, masterByte (s.line l).owner, polarityCode (s.line l).polarity,
             electricalCode (s.line l).safe, flagCode (s.line l).cutEnable, flagCode (s.line l).active,
             electricalCode (s.electrical l), pairModeCode (s.pair (pairOf l)).mode] ++
           nat16 (s.pair (pairOf l)).deadTime ++ [pairStateCode (s.pair (pairOf l)).state] ++
           (match (s.pair (pairOf l)).record with
           | none => [0xFF#8, 0#8, 0#8]
           | some r => [if r.line = .a then 0#8 else 1#8] ++ nat16 r.remaining) ++
           [0#8] ++ timestampBytes s.now))))

/-! ### The Steering Table (03_the_steering_table.md, 04_service_completion_and_deadlines.md) -/

/-- Tier 2. Who is chosen: a master is deliverable when it is a destination and ATTACHED (R38); mode ALL chooses every
deliverable master and leaves the rotation pointer (R39); mode ONE chooses the first deliverable master from the
pointer on, moving from 3 back to 0, and the pointer then stands past it, or chooses none and leaves the pointer
(R40). -/
def Obligations.MastersAreChosenByDeliveryMode : Prop :=
  ∀ (s : State) (e : EntryIx),
    (∀ m, s.deliverable e m = true ↔
      (s.entry e).destinations.getLsbD m.val = true ∧ (s.port m).attachment = .attached) ∧
    ((s.entry e).delivery = .all →
      (∀ m : Master, (s.choose e).1.getLsbD m.val = s.deliverable e m) ∧ (s.choose e).2 = (s.entry e).rotation) ∧
    ((s.entry e).delivery = .one →
      ((∀ m, s.deliverable e m = false) → s.choose e = (0#4, (s.entry e).rotation)) ∧
      ∀ k : Fin 4, s.deliverable e ((s.entry e).rotation + k) = true →
        (∀ j : Fin 4, j < k → s.deliverable e ((s.entry e).rotation + j) = false) →
        s.choose e = (single ((s.entry e).rotation + k).val, (s.entry e).rotation + k + 1))

/-- Tier 2. An edge entry takes an event (R42, R41): masked, or with no master to choose, nothing at all; else the
rotation pointer after the choice, and to each chosen master's queue one notice with the entry's index, its tag and
the event's timestamp. A delivery attempt of a level entry (R44, R41): the chosen masters become the awaiting set,
each is handed a LEVEL_EVENT notice, a non-zero deadline starts the timer, and the entry is IN_SERVICE; with no master
to choose it is HELD with the pointer as it was. An assertion of a level entry's line makes an attempt where the entry
is unmasked with nobody awaited, else nothing; a deassertion takes a HELD entry to IDLE, else nothing (R46). -/
def Obligations.EntriesDeliverEventsAndAttempts : Prop :=
  (∀ (s : State) (e : EntryIx) (t : Timestamp) (body : NoticeBody),
     ((s.entry e).masked = true ∨ (s.choose e).1 = 0#4 → s.edgeEvent e t body = s) ∧
     ((s.entry e).masked = false → (s.choose e).1 ≠ 0#4 →
       { s.edgeEvent e t body with entries := s.entries, queues := s.queues } = s ∧
       (∀ k, (s.edgeEvent e t body).entry k =
         if k = e then { s.entry e with rotation := (s.choose e).2 } else s.entry k) ∧
       ∀ m, (s.edgeEvent e t body).queue m =
         if (s.choose e).1.getLsbD m.val then
           (s.queue m).takeIn ⟨body, ⟨e.val, by omega⟩, (s.entry e).tag, t⟩
         else s.queue m)) ∧
  (∀ (s : State) (e : EntryIx) (t : Timestamp),
     { s.attempt e t with entries := s.entries, queues := s.queues } = s ∧
     (∀ k, k ≠ e → (s.attempt e t).entry k = s.entry k) ∧
     ((s.choose e).1 = 0#4 →
       (s.attempt e t).entry e = { s.entry e with awaiting := 0#4, timer := none, status := .held } ∧
       ∀ m, (s.attempt e t).queue m = s.queue m) ∧
     ((s.choose e).1 ≠ 0#4 →
       (s.attempt e t).entry e =
         { s.entry e with
           awaiting := (s.choose e).1
           rotation := (s.choose e).2
           timer := if (s.entry e).deadline = 0#16 then none else some ⟨(s.entry e).deadline.toNat, false⟩
           status := .inService } ∧
       ∀ m, (s.attempt e t).queue m =
         if (s.choose e).1.getLsbD m.val then
           (s.queue m).takeIn ⟨.levelEvent, ⟨e.val, by omega⟩, (s.entry e).tag, t⟩
         else s.queue m)) ∧
  ∀ (s : State) (e : EntryIx) (t : Timestamp),
    (s.assertion e t = if (s.entry e).masked = false ∧ (s.entry e).awaiting = 0#4 then s.attempt e t else s) ∧
    s.deassertion e =
      if (s.entry e).status = .held then s.setEntry e { s.entry e with status := .idle } else s

/-- Tier 2. The emptying of an awaiting set (R60): the timer stops; an unmasked entry whose line is asserted makes one
attempt, and so is IN_SERVICE or HELD; any other is IDLE with nobody awaited. A master that leaves an awaiting set
empties it or leaves the others in it with the timer running on (R58, R71). DEADLINE_EXPIRY (R64, R65): the LAPSED
notice names the awaiting set and goes to the supervisor, if there is one, before the entry resamples. An entry whose
timer has not been ended by a service period has no expiry (log 5). -/
def Obligations.EmptiedAndExpiredEntriesResample : Prop :=
  (∀ (s : State) (e : EntryIx) (t : Timestamp),
     (∀ m : Master, s.leaveAwaiting m t e =
       if without (s.entry e).awaiting m.val = 0#4 then s.resample e t
       else s.setEntry e { s.entry e with awaiting := without (s.entry e).awaiting m.val }) ∧
     (((s.entry e).masked = false ∧ s.entryAsserted e = true) →
       (s.resample e t =
         (s.setEntry e { s.entry e with awaiting := 0#4, timer := none, status := .idle }).attempt e t) ∧
       ((∀ m, s.deliverable e m = false) → ((s.resample e t).entry e).status = .held) ∧
       ((∃ m, s.deliverable e m = true) → ((s.resample e t).entry e).status = .inService)) ∧
     (¬((s.entry e).masked = false ∧ s.entryAsserted e = true) →
       s.resample e t = s.setEntry e { s.entry e with awaiting := 0#4, timer := none, status := .idle })) ∧
  (∀ (e : EntryIx) (s : State), s.resetHeld = false →
     ((∀ k, (s.entry e).timer = some k → k.expiring = false) → exec (.deadlineExpiry e) s = .next s) ∧
     ∀ k, (s.entry e).timer = some k → k.expiring = true →
       ∃ u : State,
         (s.supervisor = none → u = s) ∧
         (∀ h, s.supervisor = some h →
           u = s.hand h ⟨.lapsed (s.entry e).awaiting, ⟨e.val, by omega⟩, (s.entry e).tag, s.now⟩) ∧
         exec (.deadlineExpiry e) s = .next (u.resample e s.now))

/-- Tier 2. ENTRY_WRITE: the checks of R51 in order; then all six programmable fields, an attempt if the line is
asserted and the entry unmasked after the command, IDLE otherwise, and what a change of the cutoff-source flag hands
to the Cutoff Unit (R50, R52). That control bits 3 to 7 are refused is read from R171 (log 17). That each hand-off is
taken in full is the model's choice (log 26). -/
def Obligations.EntryWriteReplacesTheFields : Prop :=
  ∀ (m : Master) (f : EntryFields) (s : State), s.carriesOut m (.entryWrite m f) = true →
    (24 ≤ f.entry.toNat → exec (.entryWrite m f) s = .next ((s.front m).answer m 0x20#8 (.refusal .badArg))) ∧
    ∀ e : EntryIx, f.entry.toNat = e.val →
      let rejected : Prop := 8 ≤ f.control.toNat ∨ 16 ≤ f.destinations.toNat ∨
        (f.control.getLsbD 2 = true ∧ 16 ≤ e.val)
      let flag := f.control.getLsbD 2
      let x : Entry :=
        { s.entry e with
          masked := f.control.getLsbD 0
          delivery := if f.control.getLsbD 1 then .one else .all
          cutoffSource := flag
          destinations := f.destinations.extractLsb' 0 4
          tag := f.tag
          deadline := f.deadline
          status := .idle }
      ((s.right m).entries.getLsbD e.val = false →
        exec (.entryWrite m f) s = .next ((s.front m).answer m 0x20#8 (.refusal .denied))) ∧
      ((s.right m).entries.getLsbD e.val = true → rejected →
        exec (.entryWrite m f) s = .next ((s.front m).answer m 0x20#8 (.refusal .badArg))) ∧
      ((s.right m).entries.getLsbD e.val = true → ¬rejected → (s.entry e).awaiting ≠ 0#4 →
        exec (.entryWrite m f) s = .next ((s.front m).answer m 0x20#8 (.refusal .inService))) ∧
      ((s.right m).entries.getLsbD e.val = true → ¬rejected → (s.entry e).awaiting = 0#4 →
        ∃ t : State, exec (.entryWrite m f) s = .next (t.answer m 0x20#8 (.ok (t.entryBytes e))) ∧
          ((s.front m).setEntry e x).afterAll
            ((if s.entryAsserted e = true ∧ f.control.getLsbD 0 = false then
                [fun u : State => u.attempt e s.now] else []) ++
              match entryLine e with
              | none => []
              | some n =>
                if (s.capture n).asserted = true ∧ (s.entry e).cutoffSource = false ∧ flag = true then
                  [fun u : State => u.joinSource (.entry n) s.now]
                else if (s.capture n).asserted = true ∧ (s.entry e).cutoffSource = true ∧ flag = false then
                  [fun u : State => u.leaveSource (.entry n) s.now]
                else []) t)

/-- Tier 2. ENTRY_MASK: the checks of R53 in order; then the mask alone, with the effects of R48: unmasking a level
entry whose line is asserted and whose awaiting set is empty makes an attempt, masking takes a HELD entry to IDLE, and
the value it has changes nothing. -/
def Obligations.EntryMaskChangesTheMask : Prop :=
  ∀ (m : Master) (entry mask : Byte) (s : State), s.carriesOut m (.entryMask m entry mask) = true →
    (24 ≤ entry.toNat ∨ 2 ≤ mask.toNat →
      exec (.entryMask m entry mask) s = .next ((s.front m).answer m 0x21#8 (.refusal .badArg))) ∧
    ∀ e : EntryIx, entry.toNat = e.val → mask.toNat ≤ 1 →
      let x := s.entry e
      let t : State :=
        if x.masked = true ∧ mask = 0#8 then
          if s.entryAsserted e = true ∧ x.awaiting = 0#4 then
            ((s.front m).setEntry e { x with masked := false }).attempt e s.now
          else (s.front m).setEntry e { x with masked := false }
        else if x.masked = false ∧ mask = 1#8 then
          (s.front m).setEntry e { x with masked := true, status := if x.status = .held then .idle else x.status }
        else s.front m
      exec (.entryMask m entry mask) s =
        if (s.right m).entries.getLsbD e.val = false then .next ((s.front m).answer m 0x21#8 (.refusal .denied))
        else
          .next (t.answer m 0x21#8
            (.ok [entry, mask, entryStatusCode (t.entry e).status, (t.entry e).awaiting.setWidth 8]))

/-- Tier 1. ENTRY_READ: an index outside 0..23 gives BAD_ARG; with the programming right the whole snapshot (R54),
without it the restricted one with the RESTRICTED flag (R55); nothing changes. -/
def Obligations.EntryReadAnswersByTheRight : Prop :=
  ∀ (m : Master) (entry : Byte) (s : State), s.carriesOut m (.entryRead m entry) = true →
    (24 ≤ entry.toNat → exec (.entryRead m entry) s = .next ((s.front m).answer m 0x22#8 (.refusal .badArg))) ∧
    ∀ e : EntryIx, entry.toNat = e.val →
      let x := s.entry e
      let trigger : Nat := if s.levelEntry e then 8 else 0
      let level : Byte :=
        match entryLine e with
        | some n =>
          nat8 ((if (s.capture n).filter.level = .high then 1 else 0) + if (s.capture n).asserted then 2 else 0)
        | none => 0#8
      exec (.entryRead m entry) s =
        .next ((s.front m).answer m 0x22#8
          (if (s.right m).entries.getLsbD e.val then
            ⟨.ok,
              [entry,
                nat8 ((if x.masked then 1 else 0) + (if x.delivery = .one then 2 else 0) +
                  (if x.cutoffSource then 4 else 0) + trigger),
                entryStatusCode x.status, x.destinations.setWidth 8, x.tag] ++ bytes16 x.deadline ++
                [x.awaiting.setWidth 8] ++
                nat16 (match x.timer with | some k => k.remaining | none => 0) ++ [nat8 x.rotation.val, level],
              false⟩
           else
            ⟨.ok,
              [entry, nat8 ((if x.masked then 1 else 0) + trigger), entryStatusCode x.status, 0#8, 0#8, 0#8, 0#8, 0#8,
                0#8, 0#8, 0#8, level],
              true⟩))

/-- Tier 2. DONE (R58, R59, R61): the caller leaves the awaiting set of every entry that has the tag and awaits it, in
no fixed order; a set that empties resamples (R60). The response counts the entries and names those among E0 to E15;
with none the status is NO_MATCH and nothing changes. That each hand-off is taken in full is the model's choice (log
26). -/
def Obligations.DoneCompletesTheTaggedEntries : Prop :=
  ∀ (m : Master) (tag : Byte) (s : State), s.carriesOut m (.done m tag) = true →
    let affected := (List.finRange 24).filter fun e => (s.entry e).awaiting.getLsbD m.val && (s.entry e).tag == tag
    (affected = [] →
      exec (.done m tag) s = .next ((s.front m).answer m 0x23#8 ⟨.noMatch, [0#8, 0#8, 0#8], false⟩)) ∧
    (affected ≠ [] →
      ∃ (t : State) (set : BitVec 16),
        exec (.done m tag) s =
          .next (t.answer m 0x23#8 (.ok ([nat8 affected.length] ++ bytes16 set))) ∧
        (∀ n : CapLine, set.getLsbD n.val = decide (capEntry n ∈ affected)) ∧
        (s.front m).afterAll (affected.map fun e u => u.leaveAwaiting m s.now e) t)

/-- Tier 2. SERVICE_PERIOD (R6, R62): in every state of the Timebase each running deadline timer of 2 or more
decreases by 1 and one of 1 is to expire (log 4); expiries the last service period left are taken first, in no fixed
order. That each hand-off is taken in full is the model's choice (log 26). -/
def Obligations.ServicePeriodCountsDeadlines : Prop :=
  ∀ s : State, s.resetHeld = false →
    ∃ u t : State,
      s.afterAll (((List.finRange 24).filter fun e => (s.entry e).expiring).map fun e v => v.expire e) u ∧
      exec .servicePeriod s = .next t ∧
      { t with entries := u.entries, timebase := u.timebase } = u ∧
      t.timebase = { u.timebase with serviceDivider := 0 } ∧
      ∀ e, t.entry e =
        { u.entry e with
          timer :=
            match (u.entry e).timer with
            | none => none
            | some k =>
              some (if 2 ≤ k.remaining then { k with remaining := k.remaining - 1 } else { k with expiring := true }) }

/-! ### Notice Queues (05_notice_queues.md) -/

/-- Tier 1. A notice handed to a queue (R77, R78): discarded unless its master is ATTACHED; appended below 16 notices;
else merged into the overflow record: the first loss keeps its timestamp, the loss count stays at 65535, and the
source joins the lost sources. No other queue and nothing else changes. No block hands a queue an OVERFLOW notice, which
FETCH alone builds (R81). -/
def Obligations.NoticeIsAppendedMergedOrDiscarded : Prop :=
  ∀ (s : State) (m : Master) (n : Notice),
    let q := s.queue m
    (s.attachment m ≠ .attached → s.hand m n = s) ∧
    (s.attachment m = .attached → q.notices.length < 16 →
      s.hand m n = s.setQueue m { q with notices := q.notices ++ [n] }) ∧
    (s.attachment m = .attached → 16 ≤ q.notices.length → (∀ k t x, n.body ≠ .overflow k t x) →
      s.hand m n =
        s.setQueue m
          { q with
            firstLoss := if q.losses = 0 then some n.time else q.firstLoss
            losses := if q.losses < 65535 then q.losses + 1 else 65535
            lostSources := q.lostSources |||
              single
                (match n.body with
                | .actionDone _ => 24
                | .actionCancelled _ => 24
                | _ => n.source.val) })

/-- Tier 1. FETCH (R80, R81): NONE from an empty queue; else the oldest notice leaves with the more indication and the
depth after the command, and a non-empty overflow record becomes an OVERFLOW notice in the freed slot. ATTN_ENABLE
(R84) and the attention output (R83): a value other than on or off gives BAD_ARG; else the enable takes it and nothing
else changes. Attention is asserted exactly when the master is ATTACHED, the enable is set and the queue is not empty.
A notice in bytes (R176): kind, source, tag, timestamp, detail length and detail. -/
def Obligations.FetchAndAttentionFollowTheQueue : Prop :=
  (∀ (m : Master) (s : State), s.carriesOut m (.fetch m) = true →
     ((s.queue m).notices = [] → exec (.fetch m) s = .next ((s.front m).answer m 0x28#8 (.refusal .nothing))) ∧
     ∀ n rest, (s.queue m).notices = n :: rest →
       let q : NoticeQueue :=
         if (s.queue m).losses = 0 then { s.queue m with notices := rest }
         else
           { s.queue m with
             notices :=
               rest ++ [⟨.overflow (s.queue m).losses (s.queue m).firstLoss (s.queue m).lostSources, 0, 0#8, s.now⟩]
             losses := 0
             firstLoss := none
             lostSources := 0 }
       exec (.fetch m) s =
         .next (((s.front m).setQueue m q).answer m 0x28#8
           (.ok (noticeBytes n ++ [if q.notices = [] then 0#8 else 1#8, nat8 q.notices.length])))) ∧
  ((∀ (m : Master) (x : Byte) (s : State), s.carriesOut m (.attnEnable m x) = true →
     exec (.attnEnable m x) s =
       if 2 ≤ x.toNat then .next ((s.front m).answer m 0x29#8 (.refusal .badArg))
       else
         .next (((s.front m).setQueue m { s.queue m with enable := x == 1#8 }).answer m 0x29#8
           (.ok [x, nat8 (s.queue m).notices.length]))) ∧
   ∀ (m : Master) (s : State), s.attention m = true ↔
     (s.port m).attachment = .attached ∧ (s.queue m).enable = true ∧ (s.queue m).notices ≠ []) ∧
  ∀ n : Notice,
    let r : Byte × Byte × List Byte :=
      match n.body with
      | .edgeEvent k => (0x01#8, if 2 ≤ k then 2#8 else 0#8, if 2 ≤ k then bytes16 (BitVec.ofNat 16 k) else [])
      | .levelEvent => (0x02#8, 0#8, [])
      | .groupEvent snapshot line => (0x03#8, 3#8, bytes16 snapshot ++ [nat8 line.val])
      | .frame => (0x04#8, 0#8, [])
      | .resync before => (0x05#8, 4#8, bytes32 before)
      | .cutoffChange st none => (0x06#8, 10#8, [cutStateCode st, 0xFF#8, 0#8, 0#8, 0#8, 0#8, 0#8, 0#8, 0#8, 0#8])
      | .cutoffChange st (some x) =>
        (0x06#8, 10#8,
          [cutStateCode st, cutSourceCode x.first] ++ timestampBytes x.time ++ bytes24 (x.seen.setWidth 24))
      | .attachChange m a => (0x07#8, 2#8, [nat8 m.val, attachmentCode a])
      | .actionDone firings => (0x08#8, 2#8, bytes16 firings)
      | .actionCancelled .cutoff => (0x09#8, 1#8, [1#8])
      | .actionCancelled .revoked => (0x09#8, 1#8, [2#8])
      | .actionCancelled .released => (0x09#8, 1#8, [3#8])
      | .actionCancelled .detachedTarget => (0x09#8, 1#8, [4#8])
      | .lapsed masters => (0x0A#8, 1#8, [masters.setWidth 8])
      | .overflow losses first sources =>
        (0x0B#8, 11#8,
          bytes16 (BitVec.ofNat 16 losses) ++ timestampBytes (first.getD ⟨0, 0⟩) ++ bytes32 (sources.setWidth 32))
    noticeBytes n = [r.1, nat8 n.source.val, n.tag] ++ timestampBytes n.time ++ [r.2.1] ++ r.2.2

/-! ### The Action Schedule (06_the_action_schedule.md) -/

/-- Tier 2. ACT_SUBMIT: the six checks of R91 in their order. It executes normally where all six pass: the record of R89
takes the lowest empty slot, with the response of R93. Check 1 passes a kind 0 to 5, a reference 0 to 2, a notify 0 to
2 and a target of 0 to 7 for SET, CLEAR, TOGGLE and PULSE, 0 to 15 for GATE_OPEN and 0xFF for MARK (R91, R175); then the
standing and the state of the target (checks 1 to 3), the due time by its reference (R90), the widths, the period and
the repeat count (R92), and the quota. That a FRAME reference while framing is off, or is to go off, gives BAD_STATE
before a time value outside the frame gives BAD_ARG is DEDUCED from R90 (log 13). -/
def Obligations.ActSubmitChecksAndPlacesARecord : Prop :=
  (∀ (m : Master) (f : SubmitFields) (s : State), s.carriesOut m (.actSubmit m f) = true →
     (submitFormOf f = none → exec (.actSubmit m f) s = .next ((s.front m).answer m 0x30#8 (.refusal .badArg))) ∧
     ∀ x, submitFormOf f = some x →
       (∀ st, s.targetRefusal m x.target = some st →
         exec (.actSubmit m f) s = .next ((s.front m).answer m 0x30#8 (.refusal st))) ∧
       (s.targetRefusal m x.target = none →
         (∀ st, s.timebase.dueTime x.reference f.time = .inl st →
           exec (.actSubmit m f) s = .next ((s.front m).answer m 0x30#8 (.refusal st))) ∧
         ∀ due, s.timebase.dueTime x.reference f.time = .inr due →
           (widthsFit x.kind (widthOf f.widthA) (widthOf f.widthB) f.period.toNat f.repeatCount.toNat = false →
             exec (.actSubmit m f) s = .next ((s.front m).answer m 0x30#8 (.refusal .badArg))) ∧
           (widthsFit x.kind (widthOf f.widthA) (widthOf f.widthB) f.period.toNat f.repeatCount.toNat = true →
             ((s.right m).quota ≤ s.held m →
               exec (.actSubmit m f) s = .next ((s.front m).answer m 0x30#8 (.refusal .full))) ∧
             (s.held m < (s.right m).quota → ∀ n, s.action n = none → (∀ k, k < n → s.action k ≠ none) →
               exec (.actSubmit m f) s =
                 .next (((s.front m).setAction n
                   (some
                     { owner := m
                       kind := x.kind
                       target := x.target
                       due := due
                       phase := .armed
                       widthA := widthOf f.widthA
                       widthB := widthOf f.widthB
                       nextWidth := .a
                       period := f.period.toNat
                       repeatCount := f.repeatCount.toNat
                       remaining := if f.repeatCount = 0#16 then none else some f.repeatCount.toNat
                       firings := 0
                       notify := x.notify
                       tag := f.tag
                       staged := none })).answer m 0x30#8
                   (.ok ([nat8 n.val] ++ bytes32 due ++ timestampBytes s.now))))))) ∧
  (∀ (f : SubmitFields) (x : SubmitForm), submitFormOf f = some x ↔
     ((f.kind = 0#8 ∧ x.kind = .set) ∨ (f.kind = 1#8 ∧ x.kind = .clear) ∨ (f.kind = 2#8 ∧ x.kind = .toggle) ∨
       (f.kind = 3#8 ∧ x.kind = .pulse) ∨ (f.kind = 4#8 ∧ x.kind = .gateOpen) ∨ (f.kind = 5#8 ∧ x.kind = .mark)) ∧
     ((f.reference = 0#8 ∧ x.reference = .absolute) ∨ (f.reference = 1#8 ∧ x.reference = .relative) ∨
       (f.reference = 2#8 ∧ x.reference = .frame)) ∧
     ((f.notify = 0#8 ∧ x.notify = .never) ∨ (f.notify = 1#8 ∧ x.notify = .each) ∨
       (f.notify = 2#8 ∧ x.notify = .last)) ∧
     ((f.kind.toNat ≤ 3 ∧ ∃ l : OutLine, f.target.toNat = l.val ∧ x.target = .output l) ∨
       (f.kind = 4#8 ∧ ∃ n : CapLine, f.target.toNat = n.val ∧ x.target = .capture n) ∨
       (f.kind = 5#8 ∧ f.target = 0xFF#8 ∧ x.target = .absent))) ∧
  ((∀ (s : State) (m : Master) (l : OutLine),
     s.targetRefusal m (.output l) =
       if s.complementB l = true then some .badArg
       else if (s.line l).owner ≠ some m then some .notOwner
       else if (s.line l).drive = .cut then some .cut
       else if (s.line l).drive = .driven then none
       else some .badState) ∧
   (∀ (s : State) (m : Master) (n : CapLine),
     s.targetRefusal m (.capture n) =
       if (s.right m).entries.getLsbD n.val = false then some .denied
       else if (s.capture n).mode = .edge ∧ (s.capture n).gateEnable = true then none
       else some .badState) ∧
   (∀ (s : State) (m : Master), s.targetRefusal m .absent = none) ∧
   (∀ (t : Timebase) (v : Count),
     t.dueTime .absolute v =
       (if (v - t.count).toNat = 0 ∨ 2 ^ 31 ≤ (v - t.count).toNat then .inl .late else .inr v) ∧
     t.dueTime .relative v =
       (if v.toNat = 0 then .inl .late
        else if 2 ^ 31 ≤ v.toNat then .inl .badArg
        else .inr (t.count + v)) ∧
     t.dueTime .frame v =
       (if t.framePeriod = 0 ∨ t.staged = some 0 then .inl .badState
        else if t.staged.getD t.framePeriod ≤ v.toNat then .inl .badArg
        else .inr (t.count + BitVec.ofNat 32 t.framePeriod - BitVec.ofNat 32 t.phase + v))) ∧
   ∀ (k : ActionKind) (a b : Option Nat) (p c : Nat),
     widthsFit k a b p c = true ↔
       p < 2 ^ 31 ∧ (p = 0 → c = 1) ∧
         (k ≠ .pulse → a = none ∧ b = none) ∧
         (k = .pulse → ∃ x, a = some x ∧ (b = none → p = 0 ∨ x < p) ∧ ∀ y, b = some y → x < p ∧ y < p))

/-- Tier 2. ACT_MODIFY (R99), ACT_CANCEL (R101) and ACT_READ (R103): the slot, its record and its owner checked in
that order; then what each does. A cancelled ACTIVE pulse hands on an inactive request; no notice goes out. ACT_READ
answers with the record in 49 bytes (R178); that what the last announced count has left is taken before its snapshot,
so that its distance is 1 or more (R94), is the model's choice (log 3). The values ACT_MODIFY takes (R99, check 5): a
period of 1 to 2^31 - 1; for a PULSE a width A, and a period above the new widths and the current ones; for any other
kind no width. -/
def Obligations.RecordCommandsActOnOnesOwn : Prop :=
  (∀ (m : Master) (s : State) (i : Instr) (slot : Byte) (f : ModifyFields),
     s.carriesOut m i = true →
     ((i = .actModify m f ∧ slot = f.slot) ∨ i = .actCancel m slot ∨ i = .actRead m slot) →
     let u : State := if i = .actRead m slot then (s.front m).settle else s.front m
     (32 ≤ slot.toNat → exec i s = .next (u.answer m (commandCode i) (.refusal .badArg))) ∧
     ∀ n : Slot, slot.toNat = n.val →
       (u.action n = none → exec i s = .next (u.answer m (commandCode i) (.refusal .notFound))) ∧
       ∀ r, u.action n = some r →
         let next : Count := match r.phase with | .armed => r.due | .active stop => stop
         let active : Bool := match r.phase with | .armed => false | .active _ => true
         (r.owner ≠ m → exec i s = .next (u.answer m (commandCode i) (.refusal .notOwner))) ∧
         (r.owner = m →
           (i = .actModify m f →
             exec i s =
               if r.period = 0 ∨ r.updateFits ⟨widthOf f.widthA, widthOf f.widthB, f.period.toNat⟩ = false then
                 .next (u.answer m 0x31#8 (.refusal .badArg))
               else
                 .next ((u.setAction n
                   (some
                     { r with
                       staged := some ⟨widthOf f.widthA, widthOf f.widthB, f.period.toNat⟩ })).answer m 0x31#8
                   (.ok (bytes24 f.widthA ++ bytes24 f.widthB ++ bytes32 f.period ++ bytes16 r.firings ++
                     nat16 (r.remaining.getD 0) ++ bytes32 next)))) ∧
           (i = .actCancel m slot →
             exec i s =
               .next
                 (((if active then u.requestTarget r .inactive else u).setAction n none).answer m 0x32#8
                   (.ok (bytes16 r.firings ++ [if active then 1#8 else 0#8] ++ nat16 (r.remaining.getD 0) ++
                     timestampBytes s.now)))) ∧
           (i = .actRead m slot →
             exec i s =
               .next (u.answer m 0x33#8
                 (.ok
                   ([slot, nat8 r.owner.val,
                     (match r.kind with
                     | .set => 0#8
                     | .clear => 1#8
                     | .toggle => 2#8
                     | .pulse => 3#8
                     | .gateOpen => 4#8
                     | .mark => 5#8),
                     (match r.target with | .output l => nat8 l.val | .capture k => nat8 k.val | .absent => 0xFF#8),
                     (if active then 0x05#8 else 0#8) ||| (if r.nextWidth = .b then 0x02#8 else 0#8) |||
                       (if r.staged = none then 0#8 else 0x08#8) |||
                       (match r.notify with | .never => 0#8 | .each => 0x10#8 | .last => 0x20#8)] ++
                    bytes32 r.due ++ bytes32 (match r.phase with | .armed => 0#32 | .active stop => stop) ++
                    nat24 (r.widthA.getD 0) ++ nat24 (r.widthB.getD 0) ++ nat32 r.period ++ nat16 r.repeatCount ++
                    nat16 (r.remaining.getD 0) ++ bytes16 r.firings ++ [r.tag] ++
                    (match r.staged with
                    | none => List.replicate 10 0#8
                    | some x => nat24 (x.widthA.getD 0) ++ nat24 (x.widthB.getD 0) ++ nat32 x.period) ++
                    bytes32 (next - s.timebase.count) ++ timestampBytes s.now)))))) ∧
  (∀ (r : ActionRecord) (u : StagedUpdate),
     r.updateFits u = true ↔
       1 ≤ u.period ∧ u.period < 2 ^ 31 ∧
         (r.kind ≠ .pulse → u.widthA = none ∧ u.widthB = none) ∧
         (r.kind = .pulse →
           u.widthA ≠ none ∧
             ∀ w, u.widthA = some w ∨ u.widthB = some w ∨ r.widthA = some w ∨ r.widthB = some w → w < u.period))

/-- Tier 2. ACT_LIST (R104, R88): the held count, the quota, the timestamp, and each slot the caller's records hold
once, nearest next event time first and by slot number at one distance; nothing changes. -/
def Obligations.ActListGivesTheLogicalOrder : Prop :=
  ∀ (m : Master) (s : State), s.carriesOut m (.actList m) = true →
    ∃ slots : List Slot,
      exec (.actList m) s =
        .next ((s.front m).answer m 0x34#8
          (.ok ([nat8 (s.held m), nat8 (s.right m).quota] ++ timestampBytes s.now ++
            slots.map fun n => BitVec.ofNat 8 n.val))) ∧
      slots.Nodup ∧ slots.length = s.held m ∧
      (∀ n, n ∈ slots ↔ ∃ r, s.action n = some r ∧ r.owner = m) ∧
      slots.Pairwise fun a b =>
        ∀ x y, s.action a = some x → s.action b = some y →
          (distance s.timebase.count x.nextTime).toNat < (distance s.timebase.count y.nextTime).toNat ∨
            ((distance s.timebase.count x.nextTime).toNat = (distance s.timebase.count y.nextTime).toNat ∧ a < b)

/-- Tier 2. ACTION_FIRING (R95, R96, R98): while RUNNING, the ARMED record whose due time the announced count has reached
fires, after every end and every lower slot's firing due at that count: a level request, a gate opening or neither,
then its completion; a PULSE asks for the active level and becomes ACTIVE until its current width has passed. With no
such record nothing happens (log 3, log 5). PULSE_END (R96, R98): while RUNNING, the ACTIVE record whose end time the
announced count has reached asks for the inactive level, becomes ARMED, alternates its width if it has a width B, and
completes; ends come in ascending slot order. With no such record nothing happens (log 3, log 5). While HALTED nothing
is due (R94, R106). -/
def Obligations.FiringsAndPulseEndsActByKind : Prop :=
  (∀ (n : Slot) (s : State),
     (s.fireDue n = true ↔
       s.timebase.run = .running ∧ ∃ r, s.action n = some r ∧ r.phase = .armed ∧ r.due = s.timebase.count) ∧
     (s.endDue n = true ↔
       s.timebase.run = .running ∧ ∃ r, s.action n = some r ∧ r.phase = .active s.timebase.count)) ∧
  (∀ (n : Slot) (s : State), s.resetHeld = false →
     (s.fireDue n = false → exec (.actionFiring n) s = .next s) ∧
     ∀ r, s.action n = some r → s.timebase.run = .running → r.phase = .armed → r.due = s.timebase.count →
       ((∃ k, s.endDue k = true) ∨ (∃ k, k < n ∧ s.fireDue k = true) → exec (.actionFiring n) s = .next s) ∧
       ((∀ k, s.endDue k = false) → (∀ k, k < n → s.fireDue k = false) →
         exec (.actionFiring n) s =
           .next
             (match r.kind with
             | .set => (s.requestTarget r .active).complete n r s.timebase.announced
             | .clear => (s.requestTarget r .inactive).complete n r s.timebase.announced
             | .toggle => (s.requestTarget r .toggle).complete n r s.timebase.announced
             | .gateOpen =>
               (match r.target with
               | .capture k => s.setCapture k { s.capture k with gate := .opened }
               | _ => s).complete n r s.timebase.announced
             | .mark => s.complete n r s.timebase.announced
             | .pulse =>
               (s.requestTarget r .active).setAction n
                 (some
                   { r with
                     phase := .active (s.timebase.count +
                       BitVec.ofNat 32
                         (match r.nextWidth with | .a => r.widthA.getD 0 | .b => r.widthB.getD 0)) })))) ∧
  (∀ (n : Slot) (s : State), s.resetHeld = false →
     (s.endDue n = false → exec (.pulseEnd n) s = .next s) ∧
     ∀ r, s.action n = some r → s.timebase.run = .running → r.phase = .active s.timebase.count →
       ((∃ k, k < n ∧ s.endDue k = true) → exec (.pulseEnd n) s = .next s) ∧
       ((∀ k, k < n → s.endDue k = false) →
         exec (.pulseEnd n) s =
           .next
             ((s.requestTarget r .inactive).complete n
               { r with
                 phase := .armed
                 nextWidth :=
                   if r.widthB = none then r.nextWidth else if r.nextWidth = .a then .b else .a }
               s.timebase.announced)))

/-- Tier 2. The completion of a firing (R97, R100): the counts, the ACTION_DONE notice that notify asks for, and the
re-arm one period after the previous due time with a staged update taken first, or the removal. Nothing else changes.
-/
def Obligations.FiringCompletesOnceAndRearms : Prop :=
  ∀ (s : State) (n : Slot) (r : ActionRecord) (t : Timestamp),
    let remaining := r.remaining.map fun k => k - 1
    let again : Prop := r.period ≠ 0 ∧ remaining ≠ some 0
    { s.complete n r t with actions := s.actions, queues := s.queues } = s ∧
    (∀ k, k ≠ n → (s.complete n r t).action k = s.action k) ∧
    (¬again → (s.complete n r t).action n = none) ∧
    (again → r.staged = none →
      (s.complete n r t).action n =
        some
          { r with
            firings := r.firings + 1
            remaining := remaining
            due := r.due + BitVec.ofNat 32 r.period
            phase := .armed }) ∧
    (again → ∀ u, r.staged = some u →
      (s.complete n r t).action n =
        some
          { r with
            firings := r.firings + 1
            remaining := remaining
            due := r.due + BitVec.ofNat 32 u.period
            phase := .armed
            widthA := u.widthA
            widthB := u.widthB
            period := u.period
            nextWidth := if u.widthB = none then .a else r.nextWidth
            staged := none }) ∧
    ∀ m,
      ((m = r.owner ∧ s.attachment m = .attached ∧ (r.notify = .each ∨ (r.notify = .last ∧ ¬again))) →
        (s.complete n r t).queue m = (s.queue m).takeIn ⟨.actionDone (r.firings + 1), n, r.tag, t⟩) ∧
      (¬(m = r.owner ∧ s.attachment m = .attached ∧ (r.notify = .each ∨ (r.notify = .last ∧ ¬again))) →
        (s.complete n r t).queue m = s.queue m)

/-! ### Output lines and pairs (07_output_lines_and_pairs.md) -/

/-- Tier 2. The level of a pin (R116, R126): high impedance in FLOAT, the inactive level in DISABLED, the safe level
in CUT; in DRIVEN the logical level, or, in a COMPLEMENT pair, the active level of A in A_ACTIVE alone and of B in
B_ACTIVE alone; each through the line's own polarity. A level request (R125, R127): dropped by a line that is not
DRIVEN; on a line of an INDEPENDENT pair it sets the logical level; in a COMPLEMENT pair it concerns line A and turns
the pair toward A or B with the dead time from its start, or, when the pair already is at or on its way to that side,
changes nothing. A record's request goes to its output line, and a record on no output line has none (R95, R96). -/
def Obligations.PinLevelsAndLevelRequests : Prop :=
  (∀ (s : State) (l : OutLine),
     let pin (active : Bool) : Electrical :=
       if (s.line l).polarity = .activeHigh then if active then .high else .low else if active then .low else .high
     ((s.line l).drive = .float → s.electrical l = .float) ∧
     ((s.line l).drive = .disabled → s.electrical l = pin false) ∧
     ((s.line l).drive = .cut → s.electrical l = (s.line l).safe) ∧
     ((s.line l).drive = .driven → (s.pair (pairOf l)).mode = .independent → s.electrical l = pin (s.line l).active) ∧
     ((s.line l).drive = .driven → (s.pair (pairOf l)).mode = .complement →
       s.electrical l =
         pin
           ((decide (l = lineA (pairOf l)) && (s.pair (pairOf l)).state == some .aActive) ||
             (decide (l = lineB (pairOf l)) && (s.pair (pairOf l)).state == some .bActive)))) ∧
  (∀ (s : State) (l : OutLine) (q : LevelRequest),
     let p := pairOf l
     ((s.line l).drive ≠ .driven → s.requestLevel l q = s) ∧
     ((s.line l).drive = .driven → (s.pair p).mode = .independent →
       s.requestLevel l q =
         s.setLine l
           { s.line l with
             active := match q with | .active => true | .inactive => false | .toggle => !(s.line l).active }) ∧
     ((s.line l).drive = .driven → (s.pair p).mode = .complement →
       let wantA : Bool := match q with | .active => true | .inactive => false | .toggle => !(s.line (lineA p)).active
       let towardA : Prop := wantA = true ∧ ((s.pair p).state = some .bActive ∨ (s.pair p).state = some .deadToB)
       let towardB : Prop := wantA = false ∧ ((s.pair p).state = some .aActive ∨ (s.pair p).state = some .deadToA)
       let d := (s.pair p).deadTime
       (¬towardA → ¬towardB → s.requestLevel l q = s) ∧
       (towardA →
         s.requestLevel l q =
           ((s.setPair p
             { s.pair p with
               state := some (if d = 0 then .aActive else .deadToA)
               record := if d = 0 then none else some ⟨.a, d, false⟩ }).setLine (lineA p)
               { s.line (lineA p) with active := true }).setLine (lineB p) { s.line (lineB p) with active := false }) ∧
       (towardB →
         s.requestLevel l q =
           ((s.setPair p
             { s.pair p with
               state := some (if d = 0 then .bActive else .deadToB)
               record := if d = 0 then none else some ⟨.b, d, false⟩ }).setLine (lineA p)
               { s.line (lineA p) with active := false }).setLine (lineB p) { s.line (lineB p) with active := true }))) ∧
  ∀ (s : State) (r : ActionRecord) (q : LevelRequest),
    s.requestTarget r q = match r.target with | .output l => s.requestLevel l q | .capture _ => s | .absent => s

/-- Tier 2. LINE_CLAIM (R117) and LINE_RELEASE (R118): their checks in order; the line, or both lines of a COMPLEMENT
pair, DISABLED with the caller as owner, or FLOAT with none; their responses. -/
def Obligations.LineClaimAndReleaseMoveTheOwner : Prop :=
  ∀ (m : Master) (line : Byte) (l : OutLine) (s : State), line.toNat = l.val →
    let both : OutLine → Bool := fun k => k == l || (s.complement (pairOf l) && pairOf k == pairOf l)
    let x := s.line l
    (s.carriesOut m (.lineClaim m line) = true →
      exec (.lineClaim m line) s =
        if s.complementB l = true then .next ((s.front m).answer m 0x38#8 (.refusal .badArg))
        else if ∃ k, both k = true ∧ (s.right m).lines.getLsbD k.val = false then
          .next ((s.front m).answer m 0x38#8 (.refusal .denied))
        else if x.drive ≠ .float then .next ((s.front m).answer m 0x38#8 (.refusal .taken))
        else
          .next (((s.front m).changeLines both fun y =>
              { y with owner := some m, drive := .disabled, active := false }).answer m 0x38#8
            (.ok ([line, 1#8, polarityCode x.polarity, electricalCode x.safe, flagCode x.cutEnable,
              pairModeCode (s.pair (pairOf l)).mode] ++ nat16 (s.pair (pairOf l)).deadTime)))) ∧
    (s.carriesOut m (.lineRelease m line) = true →
      exec (.lineRelease m line) s =
        if s.complementB l = true then .next ((s.front m).answer m 0x39#8 (.refusal .badArg))
        else if x.owner ≠ some m then .next ((s.front m).answer m 0x39#8 (.refusal .notOwner))
        else if x.drive = .driven ∨ x.drive = .cut then .next ((s.front m).answer m 0x39#8 (.refusal .inUse))
        else
          .next (((s.front m).changeLines both fun y =>
              { y with owner := none, drive := .float, active := false }).answer m 0x39#8 (.ok [line, 0#8])))

/-- Tier 2. LINE_ENABLE (R120) and LINE_DISABLE (R121): their checks in order; DRIVEN with the logical level inactive,
a COMPLEMENT pair with the dead time toward B started; or DISABLED, a pair with its state and dead-time record
discarded; their responses in bytes (R182). That LINE_ENABLE of a pair leaves B's logical level active is R126's (log 22). A line with an owner is not
FLOAT in any state a run reaches (linesSound). -/
def Obligations.LineEnableAndDisableDriveTheLine : Prop :=
  ∀ (m : Master) (line : Byte) (l : OutLine) (s : State), line.toNat = l.val → s.linesSound →
    let both : OutLine → Bool := fun k => k == l || (s.complement (pairOf l) && pairOf k == pairOf l)
    let x := s.line l
    let p := pairOf l
    (s.carriesOut m (.lineEnable m line) = true →
      exec (.lineEnable m line) s =
        if s.complementB l = true then .next ((s.front m).answer m 0x3B#8 (.refusal .badArg))
        else if x.owner ≠ some m then .next ((s.front m).answer m 0x3B#8 (.refusal .notOwner))
        else if x.drive = .cut then .next ((s.front m).answer m 0x3B#8 (.refusal .cut))
        else if x.drive = .driven then .next ((s.front m).answer m 0x3B#8 (.refusal .badState))
        else if x.cutEnable = true ∧ s.cutoff.state = .tripped then
          .next ((s.front m).answer m 0x3B#8 (.refusal .cut))
        else
          let u := (s.front m).changeLines both fun y => { y with drive := .driven, active := false }
          let t : State :=
            if s.complement p then
              (u.setPair p
                { s.pair p with
                  state := some (if (s.pair p).deadTime = 0 then .bActive else .deadToB)
                  record := if (s.pair p).deadTime = 0 then none else some ⟨.b, (s.pair p).deadTime, false⟩ }).setLine
                (lineB p) { u.line (lineB p) with active := true }
            else u
          .next (t.answer m 0x3B#8
            (.ok ([line, 2#8, flagCode (t.line l).active, electricalCode (t.electrical l),
                pairModeCode (s.pair p).mode] ++
              (if s.complement p then [flagCode (t.line (lineB p)).active, electricalCode (t.electrical (lineB p))]
               else [0#8, 0#8]) ++
              [pairStateCode (t.pair p).state] ++
              (match (t.pair p).record with
              | none => [0xFF#8, 0#8, 0#8]
              | some r => [if r.line = .a then 0#8 else 1#8] ++ nat16 r.remaining))))) ∧
    (s.carriesOut m (.lineDisable m line) = true →
      exec (.lineDisable m line) s =
        if s.complementB l = true then .next ((s.front m).answer m 0x3C#8 (.refusal .badArg))
        else if x.owner ≠ some m then .next ((s.front m).answer m 0x3C#8 (.refusal .notOwner))
        else if x.drive = .cut then .next ((s.front m).answer m 0x3C#8 (.refusal .cut))
        else if x.drive = .disabled then .next ((s.front m).answer m 0x3C#8 (.refusal .badState))
        else if ∃ n r, s.action n = some r ∧ r.target = .output l then
          .next ((s.front m).answer m 0x3C#8 (.refusal .inUse))
        else
          let u := (s.front m).changeLines both fun y => { y with drive := .disabled, active := false }
          let t : State := if s.complement p then u.setPair p { s.pair p with state := none, record := none } else u
          .next (t.answer m 0x3C#8
            (.ok [line, 1#8, electricalCode (t.electrical l), pairModeCode (s.pair p).mode,
              if s.complement p then electricalCode (t.electrical (lineB p)) else 0#8])))

/-- Tier 1. LINE_CLAIM, LINE_RELEASE, LINE_ENABLE, LINE_DISABLE and LINE_READ of a line number that does not exist,
LINE_CONFIG of such a line and PAIR_CONFIG of such a pair, are answered BAD_ARG and change nothing. -/
def Obligations.UnknownLineIsBadArg : Prop :=
  ∀ (m : Master) (line : Byte) (f : LineFields) (g : PairFields) (s : State),
    ∀ i ∈ [Instr.lineClaim m line, .lineRelease m line, .lineEnable m line, .lineDisable m line, .lineRead m line,
        .lineConfig m f, .pairConfig m g],
      8 ≤ line.toNat → 8 ≤ f.line.toNat → 4 ≤ g.pair.toNat → s.carriesOut m i = true →
      exec i s = .next ((s.front m).answer m (commandCode i) (.refusal .badArg))

/-- Tier 2. LINE_CONFIG (R119): the checks in order; the polarity and the safe level of the named line, and the
cut-enable of the named line or, through an A line, of both lines of a COMPLEMENT pair. PAIR_CONFIG (R124): the checks
in order; the mode and the dead time in one step; nothing else. -/
def Obligations.LineAndPairConfigWriteTheirFields : Prop :=
  (∀ (m : Master) (f : LineFields) (l : OutLine) (s : State), s.carriesOut m (.lineConfig m f) = true →
     f.line.toNat = l.val →
     let x := s.line l
     let held : Bool := if s.complement (pairOf l) then (s.line (lineA (pairOf l))).cutEnable else x.cutEnable
     exec (.lineConfig m f) s =
       if 2 ≤ f.polarity.toNat ∨ 3 ≤ f.safe.toNat ∨ 2 ≤ f.cutEnable.toNat then
         .next ((s.front m).answer m 0x3A#8 (.refusal .badArg))
       else if x.owner ≠ some m then .next ((s.front m).answer m 0x3A#8 (.refusal .notOwner))
       else if x.drive ≠ .disabled then .next ((s.front m).answer m 0x3A#8 (.refusal .badState))
       else if s.complementB l = true ∧ flagCode held ≠ f.cutEnable then
         .next ((s.front m).answer m 0x3A#8 (.refusal .badArg))
       else
         let u : State :=
           (s.front m).changeLines
             (fun k => !s.complementB l && (k == l || (s.complement (pairOf l) && pairOf k == pairOf l)))
             fun y => { y with cutEnable := f.cutEnable == 1#8 }
         .next ((u.setLine l
             { u.line l with
               polarity := if f.polarity = 0#8 then .activeHigh else .activeLow
               safe := if f.safe = 0#8 then .low else if f.safe = 1#8 then .high else .float }).answer m 0x3A#8
           (.ok [f.line, f.polarity, f.safe, f.cutEnable, pairModeCode (s.pair (pairOf l)).mode]))) ∧
  (∀ (m : Master) (f : PairFields) (p : PairIx) (s : State), s.carriesOut m (.pairConfig m f) = true →
     f.pair.toNat = p.val →
     let a := s.line (lineA p)
     let b := s.line (lineB p)
     exec (.pairConfig m f) s =
       if 2 ≤ f.mode.toNat ∨ 1024 ≤ f.deadTime.toNat then .next ((s.front m).answer m 0x3E#8 (.refusal .badArg))
       else if a.owner ≠ some m ∨ b.owner ≠ some m then .next ((s.front m).answer m 0x3E#8 (.refusal .notOwner))
       else if a.drive ≠ .disabled ∨ b.drive ≠ .disabled then
         .next ((s.front m).answer m 0x3E#8 (.refusal .badState))
       else if f.mode = 1#8 ∧ a.cutEnable ≠ b.cutEnable then .next ((s.front m).answer m 0x3E#8 (.refusal .badState))
       else
         .next (((s.front m).setPair p
             { s.pair p with
               mode := if f.mode = 0#8 then .independent else .complement
               deadTime := f.deadTime.toNat }).answer m 0x3E#8
           (.ok ([f.mode] ++ bytes16 f.deadTime ++ [flagCode a.cutEnable, flagCode b.cutEnable]))))

/-! ### Cutoff (08_cutoff.md) -/

/-- Tier 2. A source asserts (R137, R138): an ARMED Unit trips: the record, every cut-enabled line that is DISABLED or
DRIVEN into CUT with its pair's state discarded (R129), the records on those lines removed with reason CUTOFF and E22
fired, the last two in no fixed order; a TRIPPED Unit adds the source to those seen and does nothing else. A
COMPLEMENT pair is judged by its A line (log 18). The re-arm check (R139, R140): TRIPPED, with no line CUT and no
source asserted, the Unit becomes ARMED, its record is emptied, and E22 fires with the record as it stood; otherwise
nothing changes. A continuing source joins the asserted-source set and asserts, or leaves it and the check is made
(R134, R135); a momentary one asserts and the check is made (R135, R136). The bits of the sources: 0 to 15 for E0 to
E15, 16 for PIN, 17 to 20 for FORCE by M0 to M3 (R175). That each hand-off is taken in full is the model's choice (log
26). -/
def Obligations.CutoffTripsAndRearms : Prop :=
  (∀ (s : State) (src : CutSource) (t : Timestamp),
     (s.cutoff.state = .tripped →
       s.sourceAsserts src t =
         s.setCutoff
           { s.cutoff with
             trip :=
               match s.cutoff.trip with
               | none => none
               | some r => some { r with seen := r.seen ||| 1#21 <<< src.bit } }) ∧
     (s.cutoff.state = .armed →
       let cut : OutLine → Bool := fun l =>
         (s.line (s.lead l)).cutEnable &&
           ((s.line (s.lead l)).drive == .disabled || (s.line (s.lead l)).drive == .driven)
       let gone : ActionRecord → Bool := fun r => match r.target with | .output l => cut l | _ => false
       let record : Trip := ⟨src, t, 1#21 <<< src.bit⟩
       ∃ u : State,
         { u with lines := s.lines, pairs := s.pairs, cutoff := s.cutoff } = s ∧
         (∀ l, u.line l = if cut l then { s.line l with drive := .cut, active := false } else s.line l) ∧
         (∀ p, u.pair p =
           if s.complement p && cut (lineA p) then { s.pair p with state := none, record := none } else s.pair p) ∧
         u.cutoff = { s.cutoff with state := .tripped, trip := some record } ∧
         u.afterAll
           ((if s.countRecords gone = 0 then [] else [fun v => v.cancelRecords gone .cutoff t]) ++
             [fun v => v.edgeEvent 22 t (.cutoffChange .tripped (some record))])
           (s.sourceAsserts src t))) ∧
  (∀ (s : State) (t : Timestamp),
     let holds : Prop := s.cutoff.state = .tripped ∧ s.cutoff.asserted = 0#17 ∧ ∀ l, (s.line l).drive ≠ .cut
     (¬holds → s.rearmCheck t = s) ∧
     (holds →
       s.rearmCheck t =
         (s.setCutoff { s.cutoff with state := .armed, trip := none }).edgeEvent 22 t
           (.cutoffChange .armed s.cutoff.trip))) ∧
  (∀ (s : State) (src : CutSource) (t : Timestamp),
     s.joinSource src t =
       (s.setCutoff { s.cutoff with asserted := s.cutoff.asserted ||| 1#17 <<< src.bit }).sourceAsserts src t ∧
     s.leaveSource src t =
       (s.setCutoff { s.cutoff with asserted := s.cutoff.asserted &&& ~~~ (1#17 <<< src.bit) }).rearmCheck t ∧
     s.momentary src t = (s.sourceAsserts src t).rearmCheck t) ∧
  (∀ n : CapLine, (CutSource.entry n).bit = n.val) ∧ CutSource.pin.bit = 16 ∧
  ∀ m : Master, (CutSource.force m).bit = 17 + m.val

/-- Tier 2. A removal of records by the part (R109): each record concerned leaves its slot, its owner is handed an
ACTION_CANCELLED notice with the slot, the tag and the reason, in ascending slot order, and nothing else changes: no
line, no pair. A removal by DETACH (R112): each record concerned leaves its slot, and nothing else changes. A forced
release of a set of lines (R131): each becomes FLOAT with no owner and inactive, its polarity, safe level and
cut-enable kept; a COMPLEMENT pair whose A line is in the set loses its pair state and its dead-time record; nothing
else changes. The lines a master owns, the lines of a set that are CUT, and the numbers of records. -/
def Obligations.RemovalByThePartTellsTheOwners : Prop :=
  (∀ (s : State) (p : ActionRecord → Bool) (reason : CancelReason) (t : Timestamp),
    { s.cancelRecords p reason t with actions := s.actions, queues := s.queues } = s ∧
    (∀ n, (s.cancelRecords p reason t).action n =
      match s.action n with
      | none => none
      | some r => if p r then none else some r) ∧
    ∀ m, (s.cancelRecords p reason t).queue m =
      (List.finRange 32).foldl
        (fun q n =>
          match s.action n with
          | none => q
          | some r =>
            if p r = true ∧ r.owner = m ∧ s.attachment m = .attached then
              q.takeIn ⟨.actionCancelled reason, n, r.tag, t⟩
            else q)
        (s.queue m)) ∧
  (∀ (s : State) (p : ActionRecord → Bool),
     { s.dropRecords p with actions := s.actions } = s ∧
     ∀ n, (s.dropRecords p).action n =
       match s.action n with
       | none => none
       | some r => if p r then none else some r) ∧
  (∀ (s : State) (lines : BitVec 8),
     { s.releaseLines lines with lines := s.lines, pairs := s.pairs } = s ∧
     (∀ l, (s.releaseLines lines).line l =
       if lines.getLsbD l.val then { s.line l with owner := none, drive := .float, active := false } else s.line l) ∧
     ∀ p, (s.releaseLines lines).pair p =
       if (s.pair p).mode = .complement ∧ lines.getLsbD (lineA p).val = true then
         { s.pair p with state := none, record := none }
       else s.pair p) ∧
  ∀ s : State,
    (∀ m (l : OutLine), (s.ownedLines m).getLsbD l.val = decide ((s.line l).owner = some m)) ∧
    (∀ lines, s.anyCut lines = true ↔ ∃ l : OutLine, lines.getLsbD l.val = true ∧ (s.line l).drive = .cut) ∧
    (∀ p, s.countRecords p =
      ((List.finRange 32).filter fun n => match s.action n with | none => false | some r => p r).length) ∧
    ∀ m, s.held m = s.countRecords fun r => r.owner == m

/-- Tier 2. CUT_FORCE (R136) and CUT_RESTORE (R141): their checks in order; a momentary source that asserts and
deasserts in one step; or every listed line, a COMPLEMENT pair as a whole, from CUT to DISABLED (R130) and one re-arm
check. The set of lines restored holds both lines of a pair (log 14). -/
def Obligations.CutForceAndCutRestoreAct : Prop :=
  (∀ (m : Master) (s : State), s.carriesOut m (.cutForce m) = true →
    let may : Prop := (∃ l, (s.line l).owner = some m) ∨ s.supervisor = some m
    (¬may → exec (.cutForce m) s = .next ((s.front m).answer m 0x40#8 (.refusal .denied))) ∧
    (may →
      let t := ((s.front m).sourceAsserts (.force m) s.now).rearmCheck s.now
      exec (.cutForce m) s =
        .next (t.answer m 0x40#8
          (.ok ([cutStateCode t.cutoff.state, if s.cutoff.state = .armed then 1#8 else 0#8] ++
            tripBytes t.cutoff.trip))))) ∧
  ∀ (m : Master) (lines : BitVec 8) (s : State), s.carriesOut m (.cutRestore m lines) = true →
    let whole : OutLine → Bool := fun l => (s.wholePairs lines).getLsbD l.val
    let t :=
      ((s.front m).changeLines whole fun x => { x with drive := .disabled, active := false }).rearmCheck s.now
    (∀ l, whole l = (lines.getLsbD l.val || (s.complement (pairOf l) &&
      (lines.getLsbD (lineA (pairOf l)).val || lines.getLsbD (lineB (pairOf l)).val)))) ∧
    exec (.cutRestore m lines) s =
      if lines = 0#8 ∨ ∃ l, lines.getLsbD l.val = true ∧ s.complementB l = true then
        .next ((s.front m).answer m 0x41#8 (.refusal .badArg))
      else if ∃ l : OutLine, lines.getLsbD l.val = true ∧ (s.line l).owner ≠ some m then
        .next ((s.front m).answer m 0x41#8 (.refusal .notOwner))
      else if ∃ l : OutLine, lines.getLsbD l.val = true ∧ (s.line l).drive ≠ .cut then
        .next ((s.front m).answer m 0x41#8 (.refusal .badArg))
      else if s.cutoff.asserted ≠ 0#17 then .next ((s.front m).answer m 0x41#8 (.refusal .active))
      else
        .next (t.answer m 0x41#8
          (.ok ([s.wholePairs lines, cutStateCode t.cutoff.state] ++ timestampBytes s.now)))

/-- Tier 2. The CUTOFF pin (R134, R142): CUT_CONFIG is the supervisor's once there is one, its values are checked and
written in one step, and PIN asserts or deasserts as the asserted condition changes. CUTOFF_PIN_SAMPLE and
CUTOFF_PIN_QUALIFICATION (R133, R134): the filter of a capture line, whatever the pin enable; a completed
qualification that changes the asserted condition makes PIN assert or deassert with its timestamp. The model's choice:
the level on the pin is the sample's (log 7), and a sample that does not complete qualification is no
CUTOFF_PIN_QUALIFICATION (log 5). -/
def Obligations.CutoffPinIsSampledAndCompared : Prop :=
  (∀ (m : Master) (f : CutFields) (s : State), s.carriesOut m (.cutConfig m f) = true →
     let rejected : Prop := 2 ≤ f.pinEnable.toNat ∨ 2 ≤ f.activeLevel.toNat ∨ 16 ≤ f.filterLength.toNat ∨
       ¬(f.interval.toNat = 1 ∨ f.interval.toNat = 8 ∨ f.interval.toNat = 64 ∨ f.interval.toNat = 512)
     ((∃ h, s.supervisor = some h ∧ h ≠ m) →
       exec (.cutConfig m f) s = .next ((s.front m).answer m 0x42#8 (.refusal .denied))) ∧
     ((∀ h, s.supervisor = some h → h = m) → rejected →
       exec (.cutConfig m f) s = .next ((s.front m).answer m 0x42#8 (.refusal .badArg))) ∧
     ((∀ h, s.supervisor = some h → h = m) → ¬rejected →
       let c : Cutoff :=
         { s.cutoff with
           pinEnable := f.pinEnable == 1#8
           pinActive := if f.activeLevel = 0#8 then .low else .high
           filter := { s.cutoff.filter with length := f.filterLength.toNat, interval := f.interval.toNat } }
       let u := (s.front m).setCutoff c
       let t : State :=
         if s.cutoff.pinAsserted = false ∧ c.pinAsserted = true then u.joinSource .pin s.now
         else if s.cutoff.pinAsserted = true ∧ c.pinAsserted = false then u.leaveSource .pin s.now
         else u
       exec (.cutConfig m f) s =
         .next (t.answer m 0x42#8
           (.ok ([f.pinEnable, f.activeLevel, f.filterLength] ++ bytes16 f.interval ++
             [levelCode s.cutoff.filter.level, flagCode c.pinAsserted, cutStateCode t.cutoff.state]))))) ∧
  (∀ (x : Level) (s : State), s.resetHeld = false →
     let c := s.cutoff
     let u (f : Filter) : State := { s with cutoffPin := x, cutoff := { c with filter := f } }
     (c.filter.loaded = false →
       exec (.cutoffPinSample x) s =
         .next (u { c.filter with divider := 0, sample := x, level := x, run := 0, loaded := true })) ∧
     (c.filter.loaded = true → x = c.filter.level →
       exec (.cutoffPinSample x) s = .next (u { c.filter with divider := 0, sample := x, run := 0 })) ∧
     (c.filter.loaded = true → x ≠ c.filter.level → c.filter.run < c.filter.length →
       exec (.cutoffPinSample x) s = .next (u { c.filter with divider := 0, sample := x, run := c.filter.run + 1 })) ∧
     ((c.filter.loaded = false ∨ x = c.filter.level ∨ c.filter.run < c.filter.length) →
       exec (.cutoffPinQualification x) s = .next s) ∧
     (c.filter.loaded = true → x ≠ c.filter.level → c.filter.length ≤ c.filter.run →
       let v := u { c.filter with divider := 0, sample := x, level := x, run := 0 }
       exec (.cutoffPinSample x) s = exec (.cutoffPinQualification x) s ∧
       exec (.cutoffPinQualification x) s =
         .next
           (if c.pinEnable = false then v
            else if x = c.pinActive then v.joinSource .pin s.now
            else v.leaveSource .pin s.now)))

/-! ### Rights (09_rights_and_the_supervisor.md) -/

/-- Tier 2. SUPV_CLAIM (R147), LABEL_WRITE (R154) and RIGHTS_READ (R153): their checks in order, their one change if
any, their responses. RIGHTS_WRITE: the checks of R149 in order; then the record replaced, the lines it withdraws
while the named master owns them released, pairs whole, with the records on them and the master's GATE_OPEN records on
withdrawn entries removed as REVOKED, and the re-arm check if a line left CUT, the last two in no fixed order (R150,
R151). That the response's set of released lines holds both lines of a pair is DEDUCED (log 14). That each hand-off is
taken in full is the model's choice (log 26). -/
def Obligations.RightsUnitCommandsAct : Prop :=
  (∀ (m : Master) (s : State),
     (s.carriesOut m (.supvClaim m) = true →
       (s.supervisor = none →
         exec (.supvClaim m) s =
           .next (({ s.front m with supervisor := some m } : State).answer m 0x08#8 (.ok [nat8 m.val]))) ∧
       ∀ h, s.supervisor = some h →
         exec (.supvClaim m) s = .next ((s.front m).answer m 0x08#8 ⟨.taken, [nat8 h.val], false⟩)) ∧
     (∀ label, s.carriesOut m (.labelWrite m label) = true →
       exec (.labelWrite m label) s =
         if s.supervisor ≠ some m then .next ((s.front m).answer m 0x0B#8 (.refusal .denied))
         else if s.label ≠ none then .next ((s.front m).answer m 0x0B#8 (.refusal .once))
         else
           .next (({ s.front m with label := some label } : State).answer m 0x0B#8 (.ok label.toList))) ∧
     ∀ x, s.carriesOut m (.rightsRead m x) = true →
       (4 ≤ x.toNat → exec (.rightsRead m x) s = .next ((s.front m).answer m 0x0A#8 (.refusal .badArg))) ∧
       ∀ n : Master, x.toNat = n.val →
         exec (.rightsRead m x) s =
           if n ≠ m ∧ s.supervisor ≠ some m then .next ((s.front m).answer m 0x0A#8 (.refusal .denied))
           else
             .next ((s.front m).answer m 0x0A#8
               (.ok ([x] ++ bytes24 (s.right n).entries ++
                 [(s.right n).lines, nat8 (s.right n).quota, flagCode (s.right n).timebase, nat8 (s.held n),
                   nat8 ((s.right 0).quota + (s.right 1).quota + (s.right 2).quota + (s.right 3).quota),
                   masterByte s.supervisor])))) ∧
  (∀ (m : Master) (f : RightsFields) (s : State), s.carriesOut m (.rightsWrite m f) = true →
     (s.supervisor ≠ some m → exec (.rightsWrite m f) s = .next ((s.front m).answer m 0x09#8 (.refusal .denied))) ∧
     (s.supervisor = some m → 4 ≤ f.master.toNat ∨ 32 < f.quota.toNat ∨ 1 < f.timebase.toNat →
       exec (.rightsWrite m f) s = .next ((s.front m).answer m 0x09#8 (.refusal .badArg))) ∧
     ∀ n : Master, s.supervisor = some m → f.master.toNat = n.val → f.quota.toNat ≤ 32 → f.timebase.toNat ≤ 1 →
       let sum := (s.right 0).quota + (s.right 1).quota + (s.right 2).quota + (s.right 3).quota
       let released := s.wholePairs ((s.right n).lines &&& ~~~ f.lines &&& s.ownedLines n)
       let withdrawn : EntrySet := (s.right n).entries &&& ~~~ f.entries
       let gone : ActionRecord → Bool := fun r =>
         match r.target with
         | .output l => released.getLsbD l.val
         | .capture k => r.owner == n && withdrawn.getLsbD k.val
         | .absent => false
       (f.quota.toNat < s.held n → exec (.rightsWrite m f) s = .next ((s.front m).answer m 0x09#8 (.refusal .inUse))) ∧
       (s.held n ≤ f.quota.toNat → 32 < sum - (s.right n).quota + f.quota.toNat →
         exec (.rightsWrite m f) s = .next ((s.front m).answer m 0x09#8 (.refusal .full))) ∧
       (s.held n ≤ f.quota.toNat → sum - (s.right n).quota + f.quota.toNat ≤ 32 →
         ∃ t : State,
           exec (.rightsWrite m f) s =
             .next (t.answer m 0x09#8
               (.ok ([f.master] ++ bytes24 f.entries ++ [f.lines, f.quota, f.timebase] ++
                 [nat8 (t.held n), released, nat8 (s.countRecords gone)]))) ∧
           (((s.front m).setRight n ⟨f.entries, f.lines, f.quota.toNat, f.timebase == 1#8⟩).releaseLines released).afterAll
             ((if s.countRecords gone = 0 then [] else [fun u => u.cancelRecords gone .revoked s.now]) ++
               (if s.anyCut released then [fun u => u.rearmCheck s.now] else [])) t))

/-! ### What every step keeps -/

/-- Tier 1. The state after reset has what every step keeps. -/
def Obligations.ResetMeetsEveryInvariant : Prop :=
  State.reset.queuesSound ∧ State.reset.timebase.sound ∧ State.reset.capturesSound ∧ State.reset.quotasSound ∧
    State.reset.linesSound ∧ State.reset.cutoffSound ∧ State.reset.pairsSound ∧ State.reset.recordsSound ∧
    State.reset.entriesSound

/-- Tier 3. A Notice Queue holds at most 16 notices, and its overflow record is non-empty only while it holds 16
(R77). -/
def Obligations.EveryStepKeepsTheQueueBound : Prop :=
  ∀ s t : State, s.queuesSound → step s = .next t → t.queuesSound

/-- Tier 2. The Timebase's state stays in the ranges of R1 and the capture lines' in those of R17, the gate OPEN while
its enable is off (R24) and the prescaler count 0 in LEVEL mode (R25). -/
def Obligations.EveryStepKeepsTimebaseAndCaptureRanges : Prop :=
  ∀ s t : State, s.timebase.sound → s.capturesSound → step s = .next t → t.timebase.sound ∧ t.capturesSound

/-- Tier 3. The records a master holds never number more than its quota, and the quotas sum to no more than the 32
slots (R105, R149). -/
def Obligations.EveryStepKeepsTheQuotas : Prop :=
  ∀ s t : State, s.quotasSound → step s = .next t → t.quotasSound

/-- Tier 3. While the Cutoff Unit is TRIPPED, no cut-enabled line is DRIVEN, and while it is ARMED no line is CUT
(R137, R141); the two lines of a COMPLEMENT pair keep one owner, one drive state and one cut-enable (R115, R123). -/
def Obligations.EveryStepKeepsCutLinesSafe : Prop :=
  ∀ s t : State, s.linesSound → s.cutoffSound → step s = .next t → t.linesSound ∧ t.cutoffSound

/-- Tier 3. The lines of a COMPLEMENT pair are never both at their active level: the pair state that fixes the levels,
and the dead-time record that goes with it, stand exactly while the pair is DRIVEN (R114, R126). -/
def Obligations.EveryStepKeepsComplementaryPairs : Prop :=
  (∀ s t : State, s.linesSound → s.cutoffSound → s.pairsSound → step s = .next t → t.pairsSound) ∧
    ∀ (s : State) (p : PairIx), s.linesSound → s.pairsSound → s.complement p = true →
      (s.line (lineA p)).drive ≠ .cut →
      ¬(s.electrical (lineA p) = (s.line (lineA p)).pinLevel true ∧
        s.electrical (lineB p) = (s.line (lineB p)).pinLevel true)

/-- Tier 3. Every action record that targets an output line targets a DRIVEN line of the record's owner (R109). -/
def Obligations.EveryStepKeepsRecordsOnDrivenLines : Prop :=
  ∀ s t : State, s.linesSound → s.cutoffSound → s.recordsSound → step s = .next t → t.recordsSound

/-- Tier 3. Every awaiting set is a subset of its destination set, contains no DETACHED master, and is non-empty only
on a level entry, which is IN_SERVICE exactly then (R36, R37). -/
def Obligations.EveryStepKeepsAwaitingSets : Prop :=
  ∀ s t : State, s.entriesSound → step s = .next t → t.entriesSound

/-- Tier 2. A master that holds the supervisor role keeps it until device reset (R146), and a label once written stays
until then (R154). -/
def Obligations.SupervisorAndLabelLastUntilReset : Prop :=
  ∀ (i : Instr) (s t : State), i ≠ .deviceReset → exec i s = .next t →
    (∀ m, s.supervisor = some m → t.supervisor = some m) ∧ ∀ l, s.label = some l → t.label = some l

/-- Tier 2. Reading a command's own request gives the command back, with every field at every value its bytes can hold;
the request is a frame the port takes as valid (R158, R171, R173, R177 to R179). -/
def Obligations.RequestsDecodeToTheirCommands : Prop :=
  ∀ (i : Instr) (m : Master) (code : Byte) (payload : List Byte), encodeRequest i = some (m, code, payload) →
    decodeRequest m code payload = some i ∧ commandLength code = some payload.length ∧ code ≠ 0x80#8 ∧
      frameProblem (requestFrameBytes code payload) = none ∧
      framePayload (requestFrameBytes code payload) = payload

/-- Tier 2. A valid frame is its command in two steps: where master m's command i is admitted at a port that is
executing nothing, the end of its request frame hands it on, and the step that then carries it out leaves what the
command's own row leaves (R159, R160; log 2). The chip-select period is one that RESET has not cut. -/
def Obligations.RequestFrameThenExecutionIsTheCommand : Prop :=
  ∀ (i : Instr) (m : Master) (code : Byte) (payload : List Byte) (s : State),
    encodeRequest i = some (m, code, payload) → s.resetHeld = false → (s.port m).stale = false →
    (s.port m).execution = none → (s.port m).state ≠ .executing → admission i (s.attachment m) = none →
    ∃ u, exec (.requestFrame m (requestFrameBytes code payload)) s = .next u ∧
      (u.port m).execution = some (.taken i) ∧ exec i u = exec i s
end

