-- ==== Sys2Proof/Laws/State.lean ====
section
/-! SUPPORT. One lemma per part of the state per named update, so that no proof unfolds a record update: what an update does not
name it keeps, and what it names it sets. -/
namespace Sys2Proof.Machine

/-! ### setTimebase -/

@[simp] theorem State.setTimebase_resetHeld (s : State) (t : Timebase) :
    (s.setTimebase t).resetHeld = s.resetHeld := rfl

@[simp] theorem State.setTimebase_capPins (s : State) (t : Timebase) :
    (s.setTimebase t).capPins = s.capPins := rfl

@[simp] theorem State.setTimebase_syncPin (s : State) (t : Timebase) :
    (s.setTimebase t).syncPin = s.syncPin := rfl

@[simp] theorem State.setTimebase_cutoffPin (s : State) (t : Timebase) :
    (s.setTimebase t).cutoffPin = s.cutoffPin := rfl

@[simp] theorem State.setTimebase_cutoff (s : State) (t : Timebase) :
    (s.setTimebase t).cutoff = s.cutoff := rfl

@[simp] theorem State.setTimebase_supervisor (s : State) (t : Timebase) :
    (s.setTimebase t).supervisor = s.supervisor := rfl

@[simp] theorem State.setTimebase_label (s : State) (t : Timebase) :
    (s.setTimebase t).label = s.label := rfl

@[simp] theorem State.setTimebase_arbiter (s : State) (t : Timebase) :
    (s.setTimebase t).arbiter = s.arbiter := rfl

@[simp] theorem State.setTimebase_pending (s : State) (t : Timebase) :
    (s.setTimebase t).pending = s.pending := rfl

@[simp] theorem State.setTimebase_capture (s : State) (t : Timebase) (n : CapLine) :
    (s.setTimebase t).capture n = s.capture n := rfl

@[simp] theorem State.setTimebase_group (s : State) (t : Timebase) (g : GroupIx) :
    (s.setTimebase t).group g = s.group g := rfl

@[simp] theorem State.setTimebase_entry (s : State) (t : Timebase) (e : EntryIx) :
    (s.setTimebase t).entry e = s.entry e := rfl

@[simp] theorem State.setTimebase_queue (s : State) (t : Timebase) (k : Master) :
    (s.setTimebase t).queue k = s.queue k := rfl

@[simp] theorem State.setTimebase_action (s : State) (t : Timebase) (n : Slot) :
    (s.setTimebase t).action n = s.action n := rfl

@[simp] theorem State.setTimebase_line (s : State) (t : Timebase) (l : OutLine) :
    (s.setTimebase t).line l = s.line l := rfl

@[simp] theorem State.setTimebase_pair (s : State) (t : Timebase) (p : PairIx) :
    (s.setTimebase t).pair p = s.pair p := rfl

@[simp] theorem State.setTimebase_right (s : State) (t : Timebase) (k : Master) :
    (s.setTimebase t).right k = s.right k := rfl

@[simp] theorem State.setTimebase_port (s : State) (t : Timebase) (k : Master) :
    (s.setTimebase t).port k = s.port k := rfl

@[simp] theorem State.setTimebase_self (s : State) (t : Timebase) :
    (s.setTimebase t).timebase = t := rfl

@[simp] theorem State.setTimebase_attachment (s : State) (t : Timebase) (k : Master) :
    (s.setTimebase t).attachment k = s.attachment k := rfl

/-! ### setCutoff -/

@[simp] theorem State.setCutoff_resetHeld (s : State) (c : Cutoff) :
    (s.setCutoff c).resetHeld = s.resetHeld := rfl

@[simp] theorem State.setCutoff_capPins (s : State) (c : Cutoff) :
    (s.setCutoff c).capPins = s.capPins := rfl

@[simp] theorem State.setCutoff_syncPin (s : State) (c : Cutoff) :
    (s.setCutoff c).syncPin = s.syncPin := rfl

@[simp] theorem State.setCutoff_cutoffPin (s : State) (c : Cutoff) :
    (s.setCutoff c).cutoffPin = s.cutoffPin := rfl

@[simp] theorem State.setCutoff_timebase (s : State) (c : Cutoff) :
    (s.setCutoff c).timebase = s.timebase := rfl

@[simp] theorem State.setCutoff_supervisor (s : State) (c : Cutoff) :
    (s.setCutoff c).supervisor = s.supervisor := rfl

@[simp] theorem State.setCutoff_label (s : State) (c : Cutoff) :
    (s.setCutoff c).label = s.label := rfl

@[simp] theorem State.setCutoff_arbiter (s : State) (c : Cutoff) :
    (s.setCutoff c).arbiter = s.arbiter := rfl

@[simp] theorem State.setCutoff_pending (s : State) (c : Cutoff) :
    (s.setCutoff c).pending = s.pending := rfl

@[simp] theorem State.setCutoff_capture (s : State) (c : Cutoff) (n : CapLine) :
    (s.setCutoff c).capture n = s.capture n := rfl

@[simp] theorem State.setCutoff_group (s : State) (c : Cutoff) (g : GroupIx) :
    (s.setCutoff c).group g = s.group g := rfl

@[simp] theorem State.setCutoff_entry (s : State) (c : Cutoff) (e : EntryIx) :
    (s.setCutoff c).entry e = s.entry e := rfl

@[simp] theorem State.setCutoff_queue (s : State) (c : Cutoff) (k : Master) :
    (s.setCutoff c).queue k = s.queue k := rfl

@[simp] theorem State.setCutoff_action (s : State) (c : Cutoff) (n : Slot) :
    (s.setCutoff c).action n = s.action n := rfl

@[simp] theorem State.setCutoff_line (s : State) (c : Cutoff) (l : OutLine) :
    (s.setCutoff c).line l = s.line l := rfl

@[simp] theorem State.setCutoff_pair (s : State) (c : Cutoff) (p : PairIx) :
    (s.setCutoff c).pair p = s.pair p := rfl

@[simp] theorem State.setCutoff_right (s : State) (c : Cutoff) (k : Master) :
    (s.setCutoff c).right k = s.right k := rfl

@[simp] theorem State.setCutoff_port (s : State) (c : Cutoff) (k : Master) :
    (s.setCutoff c).port k = s.port k := rfl

@[simp] theorem State.setCutoff_self (s : State) (c : Cutoff) :
    (s.setCutoff c).cutoff = c := rfl

@[simp] theorem State.setCutoff_now (s : State) (c : Cutoff) :
    (s.setCutoff c).now = s.now := rfl

@[simp] theorem State.setCutoff_attachment (s : State) (c : Cutoff) (k : Master) :
    (s.setCutoff c).attachment k = s.attachment k := rfl

/-! ### spendChoice -/

@[simp] theorem State.spendChoice_resetHeld (s : State) :
    (s.spendChoice).resetHeld = s.resetHeld := rfl

@[simp] theorem State.spendChoice_capPins (s : State) :
    (s.spendChoice).capPins = s.capPins := rfl

@[simp] theorem State.spendChoice_syncPin (s : State) :
    (s.spendChoice).syncPin = s.syncPin := rfl

@[simp] theorem State.spendChoice_cutoffPin (s : State) :
    (s.spendChoice).cutoffPin = s.cutoffPin := rfl

@[simp] theorem State.spendChoice_timebase (s : State) :
    (s.spendChoice).timebase = s.timebase := rfl

@[simp] theorem State.spendChoice_cutoff (s : State) :
    (s.spendChoice).cutoff = s.cutoff := rfl

@[simp] theorem State.spendChoice_supervisor (s : State) :
    (s.spendChoice).supervisor = s.supervisor := rfl

@[simp] theorem State.spendChoice_label (s : State) :
    (s.spendChoice).label = s.label := rfl

@[simp] theorem State.spendChoice_pending (s : State) :
    (s.spendChoice).pending = s.pending := rfl

@[simp] theorem State.spendChoice_capture (s : State) (n : CapLine) :
    (s.spendChoice).capture n = s.capture n := rfl

@[simp] theorem State.spendChoice_group (s : State) (g : GroupIx) :
    (s.spendChoice).group g = s.group g := rfl

@[simp] theorem State.spendChoice_entry (s : State) (e : EntryIx) :
    (s.spendChoice).entry e = s.entry e := rfl

@[simp] theorem State.spendChoice_queue (s : State) (k : Master) :
    (s.spendChoice).queue k = s.queue k := rfl

@[simp] theorem State.spendChoice_action (s : State) (n : Slot) :
    (s.spendChoice).action n = s.action n := rfl

@[simp] theorem State.spendChoice_line (s : State) (l : OutLine) :
    (s.spendChoice).line l = s.line l := rfl

@[simp] theorem State.spendChoice_pair (s : State) (p : PairIx) :
    (s.spendChoice).pair p = s.pair p := rfl

@[simp] theorem State.spendChoice_right (s : State) (k : Master) :
    (s.spendChoice).right k = s.right k := rfl

@[simp] theorem State.spendChoice_port (s : State) (k : Master) :
    (s.spendChoice).port k = s.port k := rfl

@[simp] theorem State.spendChoice_self (s : State) :
    (s.spendChoice).arbiter = s.arbiter.tail := rfl

@[simp] theorem State.spendChoice_now (s : State) :
    (s.spendChoice).now = s.now := rfl

@[simp] theorem State.spendChoice_attachment (s : State) (k : Master) :
    (s.spendChoice).attachment k = s.attachment k := rfl

/-! ### withPending -/

@[simp] theorem State.withPending_resetHeld (s : State) (rest : List Instr) :
    (s.withPending rest).resetHeld = s.resetHeld := rfl

@[simp] theorem State.withPending_capPins (s : State) (rest : List Instr) :
    (s.withPending rest).capPins = s.capPins := rfl

@[simp] theorem State.withPending_syncPin (s : State) (rest : List Instr) :
    (s.withPending rest).syncPin = s.syncPin := rfl

@[simp] theorem State.withPending_cutoffPin (s : State) (rest : List Instr) :
    (s.withPending rest).cutoffPin = s.cutoffPin := rfl

@[simp] theorem State.withPending_timebase (s : State) (rest : List Instr) :
    (s.withPending rest).timebase = s.timebase := rfl

@[simp] theorem State.withPending_cutoff (s : State) (rest : List Instr) :
    (s.withPending rest).cutoff = s.cutoff := rfl

@[simp] theorem State.withPending_supervisor (s : State) (rest : List Instr) :
    (s.withPending rest).supervisor = s.supervisor := rfl

@[simp] theorem State.withPending_label (s : State) (rest : List Instr) :
    (s.withPending rest).label = s.label := rfl

@[simp] theorem State.withPending_arbiter (s : State) (rest : List Instr) :
    (s.withPending rest).arbiter = s.arbiter := rfl

@[simp] theorem State.withPending_capture (s : State) (rest : List Instr) (n : CapLine) :
    (s.withPending rest).capture n = s.capture n := rfl

@[simp] theorem State.withPending_group (s : State) (rest : List Instr) (g : GroupIx) :
    (s.withPending rest).group g = s.group g := rfl

@[simp] theorem State.withPending_entry (s : State) (rest : List Instr) (e : EntryIx) :
    (s.withPending rest).entry e = s.entry e := rfl

@[simp] theorem State.withPending_queue (s : State) (rest : List Instr) (k : Master) :
    (s.withPending rest).queue k = s.queue k := rfl

@[simp] theorem State.withPending_action (s : State) (rest : List Instr) (n : Slot) :
    (s.withPending rest).action n = s.action n := rfl

@[simp] theorem State.withPending_line (s : State) (rest : List Instr) (l : OutLine) :
    (s.withPending rest).line l = s.line l := rfl

@[simp] theorem State.withPending_pair (s : State) (rest : List Instr) (p : PairIx) :
    (s.withPending rest).pair p = s.pair p := rfl

@[simp] theorem State.withPending_right (s : State) (rest : List Instr) (k : Master) :
    (s.withPending rest).right k = s.right k := rfl

@[simp] theorem State.withPending_port (s : State) (rest : List Instr) (k : Master) :
    (s.withPending rest).port k = s.port k := rfl

@[simp] theorem State.withPending_self (s : State) (rest : List Instr) :
    (s.withPending rest).pending = rest := rfl

@[simp] theorem State.withPending_now (s : State) (rest : List Instr) :
    (s.withPending rest).now = s.now := rfl

@[simp] theorem State.withPending_attachment (s : State) (rest : List Instr) (k : Master) :
    (s.withPending rest).attachment k = s.attachment k := rfl

/-! ### setCapture -/

@[simp] theorem State.setCapture_resetHeld (s : State) (i : CapLine) (x : CaptureLine) :
    (s.setCapture i x).resetHeld = s.resetHeld := rfl

@[simp] theorem State.setCapture_capPins (s : State) (i : CapLine) (x : CaptureLine) :
    (s.setCapture i x).capPins = s.capPins := rfl

@[simp] theorem State.setCapture_syncPin (s : State) (i : CapLine) (x : CaptureLine) :
    (s.setCapture i x).syncPin = s.syncPin := rfl

@[simp] theorem State.setCapture_cutoffPin (s : State) (i : CapLine) (x : CaptureLine) :
    (s.setCapture i x).cutoffPin = s.cutoffPin := rfl

@[simp] theorem State.setCapture_timebase (s : State) (i : CapLine) (x : CaptureLine) :
    (s.setCapture i x).timebase = s.timebase := rfl

@[simp] theorem State.setCapture_cutoff (s : State) (i : CapLine) (x : CaptureLine) :
    (s.setCapture i x).cutoff = s.cutoff := rfl

@[simp] theorem State.setCapture_supervisor (s : State) (i : CapLine) (x : CaptureLine) :
    (s.setCapture i x).supervisor = s.supervisor := rfl

@[simp] theorem State.setCapture_label (s : State) (i : CapLine) (x : CaptureLine) :
    (s.setCapture i x).label = s.label := rfl

@[simp] theorem State.setCapture_arbiter (s : State) (i : CapLine) (x : CaptureLine) :
    (s.setCapture i x).arbiter = s.arbiter := rfl

@[simp] theorem State.setCapture_pending (s : State) (i : CapLine) (x : CaptureLine) :
    (s.setCapture i x).pending = s.pending := rfl

@[simp] theorem State.setCapture_group (s : State) (i : CapLine) (x : CaptureLine) (g : GroupIx) :
    (s.setCapture i x).group g = s.group g := rfl

@[simp] theorem State.setCapture_entry (s : State) (i : CapLine) (x : CaptureLine) (e : EntryIx) :
    (s.setCapture i x).entry e = s.entry e := rfl

@[simp] theorem State.setCapture_queue (s : State) (i : CapLine) (x : CaptureLine) (k : Master) :
    (s.setCapture i x).queue k = s.queue k := rfl

@[simp] theorem State.setCapture_action (s : State) (i : CapLine) (x : CaptureLine) (n : Slot) :
    (s.setCapture i x).action n = s.action n := rfl

@[simp] theorem State.setCapture_line (s : State) (i : CapLine) (x : CaptureLine) (l : OutLine) :
    (s.setCapture i x).line l = s.line l := rfl

@[simp] theorem State.setCapture_pair (s : State) (i : CapLine) (x : CaptureLine) (p : PairIx) :
    (s.setCapture i x).pair p = s.pair p := rfl

@[simp] theorem State.setCapture_right (s : State) (i : CapLine) (x : CaptureLine) (k : Master) :
    (s.setCapture i x).right k = s.right k := rfl

@[simp] theorem State.setCapture_port (s : State) (i : CapLine) (x : CaptureLine) (k : Master) :
    (s.setCapture i x).port k = s.port k := rfl

@[simp] theorem State.setCapture_self (s : State) (i : CapLine) (x : CaptureLine) : (s.setCapture i x).capture i = x := by
  simp [State.setCapture, State.capture]

theorem State.setCapture_capture (s : State) (i : CapLine) (x : CaptureLine) (j : CapLine) :
    (s.setCapture i x).capture j = if j = i then x else s.capture j := by
  by_cases h : j = i
  · subst h; simp
  · have hv : (i : Nat) ≠ j := fun e => h (Fin.ext e.symm)
    simp [State.setCapture, State.capture, h, hv]

@[simp] theorem State.setCapture_other (s : State) {i j : CapLine} (x : CaptureLine) (h : j ≠ i) :
    (s.setCapture i x).capture j = s.capture j := by
  rw [State.setCapture_capture, if_neg h]

@[simp] theorem State.setCapture_now (s : State) (i : CapLine) (x : CaptureLine) :
    (s.setCapture i x).now = s.now := rfl

@[simp] theorem State.setCapture_attachment (s : State) (i : CapLine) (x : CaptureLine) (k : Master) :
    (s.setCapture i x).attachment k = s.attachment k := rfl

/-! ### setGroup -/

@[simp] theorem State.setGroup_resetHeld (s : State) (i : GroupIx) (x : CapSet) :
    (s.setGroup i x).resetHeld = s.resetHeld := rfl

@[simp] theorem State.setGroup_capPins (s : State) (i : GroupIx) (x : CapSet) :
    (s.setGroup i x).capPins = s.capPins := rfl

@[simp] theorem State.setGroup_syncPin (s : State) (i : GroupIx) (x : CapSet) :
    (s.setGroup i x).syncPin = s.syncPin := rfl

@[simp] theorem State.setGroup_cutoffPin (s : State) (i : GroupIx) (x : CapSet) :
    (s.setGroup i x).cutoffPin = s.cutoffPin := rfl

@[simp] theorem State.setGroup_timebase (s : State) (i : GroupIx) (x : CapSet) :
    (s.setGroup i x).timebase = s.timebase := rfl

@[simp] theorem State.setGroup_cutoff (s : State) (i : GroupIx) (x : CapSet) :
    (s.setGroup i x).cutoff = s.cutoff := rfl

@[simp] theorem State.setGroup_supervisor (s : State) (i : GroupIx) (x : CapSet) :
    (s.setGroup i x).supervisor = s.supervisor := rfl

@[simp] theorem State.setGroup_label (s : State) (i : GroupIx) (x : CapSet) :
    (s.setGroup i x).label = s.label := rfl

@[simp] theorem State.setGroup_arbiter (s : State) (i : GroupIx) (x : CapSet) :
    (s.setGroup i x).arbiter = s.arbiter := rfl

@[simp] theorem State.setGroup_pending (s : State) (i : GroupIx) (x : CapSet) :
    (s.setGroup i x).pending = s.pending := rfl

@[simp] theorem State.setGroup_capture (s : State) (i : GroupIx) (x : CapSet) (n : CapLine) :
    (s.setGroup i x).capture n = s.capture n := rfl

@[simp] theorem State.setGroup_entry (s : State) (i : GroupIx) (x : CapSet) (e : EntryIx) :
    (s.setGroup i x).entry e = s.entry e := rfl

@[simp] theorem State.setGroup_queue (s : State) (i : GroupIx) (x : CapSet) (k : Master) :
    (s.setGroup i x).queue k = s.queue k := rfl

@[simp] theorem State.setGroup_action (s : State) (i : GroupIx) (x : CapSet) (n : Slot) :
    (s.setGroup i x).action n = s.action n := rfl

@[simp] theorem State.setGroup_line (s : State) (i : GroupIx) (x : CapSet) (l : OutLine) :
    (s.setGroup i x).line l = s.line l := rfl

@[simp] theorem State.setGroup_pair (s : State) (i : GroupIx) (x : CapSet) (p : PairIx) :
    (s.setGroup i x).pair p = s.pair p := rfl

@[simp] theorem State.setGroup_right (s : State) (i : GroupIx) (x : CapSet) (k : Master) :
    (s.setGroup i x).right k = s.right k := rfl

@[simp] theorem State.setGroup_port (s : State) (i : GroupIx) (x : CapSet) (k : Master) :
    (s.setGroup i x).port k = s.port k := rfl

@[simp] theorem State.setGroup_self (s : State) (i : GroupIx) (x : CapSet) : (s.setGroup i x).group i = x := by
  simp [State.setGroup, State.group]

theorem State.setGroup_group (s : State) (i : GroupIx) (x : CapSet) (j : GroupIx) :
    (s.setGroup i x).group j = if j = i then x else s.group j := by
  by_cases h : j = i
  · subst h; simp
  · have hv : (i : Nat) ≠ j := fun e => h (Fin.ext e.symm)
    simp [State.setGroup, State.group, h, hv]

@[simp] theorem State.setGroup_other (s : State) {i j : GroupIx} (x : CapSet) (h : j ≠ i) :
    (s.setGroup i x).group j = s.group j := by
  rw [State.setGroup_group, if_neg h]

@[simp] theorem State.setGroup_now (s : State) (i : GroupIx) (x : CapSet) :
    (s.setGroup i x).now = s.now := rfl

@[simp] theorem State.setGroup_attachment (s : State) (i : GroupIx) (x : CapSet) (k : Master) :
    (s.setGroup i x).attachment k = s.attachment k := rfl

/-! ### setEntry -/

@[simp] theorem State.setEntry_resetHeld (s : State) (i : EntryIx) (x : Entry) :
    (s.setEntry i x).resetHeld = s.resetHeld := rfl

@[simp] theorem State.setEntry_capPins (s : State) (i : EntryIx) (x : Entry) :
    (s.setEntry i x).capPins = s.capPins := rfl

@[simp] theorem State.setEntry_syncPin (s : State) (i : EntryIx) (x : Entry) :
    (s.setEntry i x).syncPin = s.syncPin := rfl

@[simp] theorem State.setEntry_cutoffPin (s : State) (i : EntryIx) (x : Entry) :
    (s.setEntry i x).cutoffPin = s.cutoffPin := rfl

@[simp] theorem State.setEntry_timebase (s : State) (i : EntryIx) (x : Entry) :
    (s.setEntry i x).timebase = s.timebase := rfl

@[simp] theorem State.setEntry_cutoff (s : State) (i : EntryIx) (x : Entry) :
    (s.setEntry i x).cutoff = s.cutoff := rfl

@[simp] theorem State.setEntry_supervisor (s : State) (i : EntryIx) (x : Entry) :
    (s.setEntry i x).supervisor = s.supervisor := rfl

@[simp] theorem State.setEntry_label (s : State) (i : EntryIx) (x : Entry) :
    (s.setEntry i x).label = s.label := rfl

@[simp] theorem State.setEntry_arbiter (s : State) (i : EntryIx) (x : Entry) :
    (s.setEntry i x).arbiter = s.arbiter := rfl

@[simp] theorem State.setEntry_pending (s : State) (i : EntryIx) (x : Entry) :
    (s.setEntry i x).pending = s.pending := rfl

@[simp] theorem State.setEntry_capture (s : State) (i : EntryIx) (x : Entry) (n : CapLine) :
    (s.setEntry i x).capture n = s.capture n := rfl

@[simp] theorem State.setEntry_group (s : State) (i : EntryIx) (x : Entry) (g : GroupIx) :
    (s.setEntry i x).group g = s.group g := rfl

@[simp] theorem State.setEntry_queue (s : State) (i : EntryIx) (x : Entry) (k : Master) :
    (s.setEntry i x).queue k = s.queue k := rfl

@[simp] theorem State.setEntry_action (s : State) (i : EntryIx) (x : Entry) (n : Slot) :
    (s.setEntry i x).action n = s.action n := rfl

@[simp] theorem State.setEntry_line (s : State) (i : EntryIx) (x : Entry) (l : OutLine) :
    (s.setEntry i x).line l = s.line l := rfl

@[simp] theorem State.setEntry_pair (s : State) (i : EntryIx) (x : Entry) (p : PairIx) :
    (s.setEntry i x).pair p = s.pair p := rfl

@[simp] theorem State.setEntry_right (s : State) (i : EntryIx) (x : Entry) (k : Master) :
    (s.setEntry i x).right k = s.right k := rfl

@[simp] theorem State.setEntry_port (s : State) (i : EntryIx) (x : Entry) (k : Master) :
    (s.setEntry i x).port k = s.port k := rfl

@[simp] theorem State.setEntry_self (s : State) (i : EntryIx) (x : Entry) : (s.setEntry i x).entry i = x := by
  simp [State.setEntry, State.entry]

theorem State.setEntry_entry (s : State) (i : EntryIx) (x : Entry) (j : EntryIx) :
    (s.setEntry i x).entry j = if j = i then x else s.entry j := by
  by_cases h : j = i
  · subst h; simp
  · have hv : (i : Nat) ≠ j := fun e => h (Fin.ext e.symm)
    simp [State.setEntry, State.entry, h, hv]

@[simp] theorem State.setEntry_other (s : State) {i j : EntryIx} (x : Entry) (h : j ≠ i) :
    (s.setEntry i x).entry j = s.entry j := by
  rw [State.setEntry_entry, if_neg h]

@[simp] theorem State.setEntry_now (s : State) (i : EntryIx) (x : Entry) :
    (s.setEntry i x).now = s.now := rfl

@[simp] theorem State.setEntry_attachment (s : State) (i : EntryIx) (x : Entry) (k : Master) :
    (s.setEntry i x).attachment k = s.attachment k := rfl

/-! ### setQueue -/

@[simp] theorem State.setQueue_resetHeld (s : State) (i : Master) (x : NoticeQueue) :
    (s.setQueue i x).resetHeld = s.resetHeld := rfl

@[simp] theorem State.setQueue_capPins (s : State) (i : Master) (x : NoticeQueue) :
    (s.setQueue i x).capPins = s.capPins := rfl

@[simp] theorem State.setQueue_syncPin (s : State) (i : Master) (x : NoticeQueue) :
    (s.setQueue i x).syncPin = s.syncPin := rfl

@[simp] theorem State.setQueue_cutoffPin (s : State) (i : Master) (x : NoticeQueue) :
    (s.setQueue i x).cutoffPin = s.cutoffPin := rfl

@[simp] theorem State.setQueue_timebase (s : State) (i : Master) (x : NoticeQueue) :
    (s.setQueue i x).timebase = s.timebase := rfl

@[simp] theorem State.setQueue_cutoff (s : State) (i : Master) (x : NoticeQueue) :
    (s.setQueue i x).cutoff = s.cutoff := rfl

@[simp] theorem State.setQueue_supervisor (s : State) (i : Master) (x : NoticeQueue) :
    (s.setQueue i x).supervisor = s.supervisor := rfl

@[simp] theorem State.setQueue_label (s : State) (i : Master) (x : NoticeQueue) :
    (s.setQueue i x).label = s.label := rfl

@[simp] theorem State.setQueue_arbiter (s : State) (i : Master) (x : NoticeQueue) :
    (s.setQueue i x).arbiter = s.arbiter := rfl

@[simp] theorem State.setQueue_pending (s : State) (i : Master) (x : NoticeQueue) :
    (s.setQueue i x).pending = s.pending := rfl

@[simp] theorem State.setQueue_capture (s : State) (i : Master) (x : NoticeQueue) (n : CapLine) :
    (s.setQueue i x).capture n = s.capture n := rfl

@[simp] theorem State.setQueue_group (s : State) (i : Master) (x : NoticeQueue) (g : GroupIx) :
    (s.setQueue i x).group g = s.group g := rfl

@[simp] theorem State.setQueue_entry (s : State) (i : Master) (x : NoticeQueue) (e : EntryIx) :
    (s.setQueue i x).entry e = s.entry e := rfl

@[simp] theorem State.setQueue_action (s : State) (i : Master) (x : NoticeQueue) (n : Slot) :
    (s.setQueue i x).action n = s.action n := rfl

@[simp] theorem State.setQueue_line (s : State) (i : Master) (x : NoticeQueue) (l : OutLine) :
    (s.setQueue i x).line l = s.line l := rfl

@[simp] theorem State.setQueue_pair (s : State) (i : Master) (x : NoticeQueue) (p : PairIx) :
    (s.setQueue i x).pair p = s.pair p := rfl

@[simp] theorem State.setQueue_right (s : State) (i : Master) (x : NoticeQueue) (k : Master) :
    (s.setQueue i x).right k = s.right k := rfl

@[simp] theorem State.setQueue_port (s : State) (i : Master) (x : NoticeQueue) (k : Master) :
    (s.setQueue i x).port k = s.port k := rfl

@[simp] theorem State.setQueue_self (s : State) (i : Master) (x : NoticeQueue) : (s.setQueue i x).queue i = x := by
  simp [State.setQueue, State.queue]

theorem State.setQueue_queue (s : State) (i : Master) (x : NoticeQueue) (j : Master) :
    (s.setQueue i x).queue j = if j = i then x else s.queue j := by
  by_cases h : j = i
  · subst h; simp
  · have hv : (i : Nat) ≠ j := fun e => h (Fin.ext e.symm)
    simp [State.setQueue, State.queue, h, hv]

@[simp] theorem State.setQueue_other (s : State) {i j : Master} (x : NoticeQueue) (h : j ≠ i) :
    (s.setQueue i x).queue j = s.queue j := by
  rw [State.setQueue_queue, if_neg h]

@[simp] theorem State.setQueue_now (s : State) (i : Master) (x : NoticeQueue) :
    (s.setQueue i x).now = s.now := rfl

@[simp] theorem State.setQueue_attachment (s : State) (i : Master) (x : NoticeQueue) (k : Master) :
    (s.setQueue i x).attachment k = s.attachment k := rfl

/-! ### setAction -/

@[simp] theorem State.setAction_resetHeld (s : State) (i : Slot) (x : Option ActionRecord) :
    (s.setAction i x).resetHeld = s.resetHeld := rfl

@[simp] theorem State.setAction_capPins (s : State) (i : Slot) (x : Option ActionRecord) :
    (s.setAction i x).capPins = s.capPins := rfl

@[simp] theorem State.setAction_syncPin (s : State) (i : Slot) (x : Option ActionRecord) :
    (s.setAction i x).syncPin = s.syncPin := rfl

@[simp] theorem State.setAction_cutoffPin (s : State) (i : Slot) (x : Option ActionRecord) :
    (s.setAction i x).cutoffPin = s.cutoffPin := rfl

@[simp] theorem State.setAction_timebase (s : State) (i : Slot) (x : Option ActionRecord) :
    (s.setAction i x).timebase = s.timebase := rfl

@[simp] theorem State.setAction_cutoff (s : State) (i : Slot) (x : Option ActionRecord) :
    (s.setAction i x).cutoff = s.cutoff := rfl

@[simp] theorem State.setAction_supervisor (s : State) (i : Slot) (x : Option ActionRecord) :
    (s.setAction i x).supervisor = s.supervisor := rfl

@[simp] theorem State.setAction_label (s : State) (i : Slot) (x : Option ActionRecord) :
    (s.setAction i x).label = s.label := rfl

@[simp] theorem State.setAction_arbiter (s : State) (i : Slot) (x : Option ActionRecord) :
    (s.setAction i x).arbiter = s.arbiter := rfl

@[simp] theorem State.setAction_pending (s : State) (i : Slot) (x : Option ActionRecord) :
    (s.setAction i x).pending = s.pending := rfl

@[simp] theorem State.setAction_capture (s : State) (i : Slot) (x : Option ActionRecord) (n : CapLine) :
    (s.setAction i x).capture n = s.capture n := rfl

@[simp] theorem State.setAction_group (s : State) (i : Slot) (x : Option ActionRecord) (g : GroupIx) :
    (s.setAction i x).group g = s.group g := rfl

@[simp] theorem State.setAction_entry (s : State) (i : Slot) (x : Option ActionRecord) (e : EntryIx) :
    (s.setAction i x).entry e = s.entry e := rfl

@[simp] theorem State.setAction_queue (s : State) (i : Slot) (x : Option ActionRecord) (k : Master) :
    (s.setAction i x).queue k = s.queue k := rfl

@[simp] theorem State.setAction_line (s : State) (i : Slot) (x : Option ActionRecord) (l : OutLine) :
    (s.setAction i x).line l = s.line l := rfl

@[simp] theorem State.setAction_pair (s : State) (i : Slot) (x : Option ActionRecord) (p : PairIx) :
    (s.setAction i x).pair p = s.pair p := rfl

@[simp] theorem State.setAction_right (s : State) (i : Slot) (x : Option ActionRecord) (k : Master) :
    (s.setAction i x).right k = s.right k := rfl

@[simp] theorem State.setAction_port (s : State) (i : Slot) (x : Option ActionRecord) (k : Master) :
    (s.setAction i x).port k = s.port k := rfl

@[simp] theorem State.setAction_self (s : State) (i : Slot) (x : Option ActionRecord) : (s.setAction i x).action i = x := by
  simp [State.setAction, State.action]

theorem State.setAction_action (s : State) (i : Slot) (x : Option ActionRecord) (j : Slot) :
    (s.setAction i x).action j = if j = i then x else s.action j := by
  by_cases h : j = i
  · subst h; simp
  · have hv : (i : Nat) ≠ j := fun e => h (Fin.ext e.symm)
    simp [State.setAction, State.action, h, hv]

@[simp] theorem State.setAction_other (s : State) {i j : Slot} (x : Option ActionRecord) (h : j ≠ i) :
    (s.setAction i x).action j = s.action j := by
  rw [State.setAction_action, if_neg h]

@[simp] theorem State.setAction_now (s : State) (i : Slot) (x : Option ActionRecord) :
    (s.setAction i x).now = s.now := rfl

@[simp] theorem State.setAction_attachment (s : State) (i : Slot) (x : Option ActionRecord) (k : Master) :
    (s.setAction i x).attachment k = s.attachment k := rfl

/-! ### setLine -/

@[simp] theorem State.setLine_resetHeld (s : State) (i : OutLine) (x : OutputLine) :
    (s.setLine i x).resetHeld = s.resetHeld := rfl

@[simp] theorem State.setLine_capPins (s : State) (i : OutLine) (x : OutputLine) :
    (s.setLine i x).capPins = s.capPins := rfl

@[simp] theorem State.setLine_syncPin (s : State) (i : OutLine) (x : OutputLine) :
    (s.setLine i x).syncPin = s.syncPin := rfl

@[simp] theorem State.setLine_cutoffPin (s : State) (i : OutLine) (x : OutputLine) :
    (s.setLine i x).cutoffPin = s.cutoffPin := rfl

@[simp] theorem State.setLine_timebase (s : State) (i : OutLine) (x : OutputLine) :
    (s.setLine i x).timebase = s.timebase := rfl

@[simp] theorem State.setLine_cutoff (s : State) (i : OutLine) (x : OutputLine) :
    (s.setLine i x).cutoff = s.cutoff := rfl

@[simp] theorem State.setLine_supervisor (s : State) (i : OutLine) (x : OutputLine) :
    (s.setLine i x).supervisor = s.supervisor := rfl

@[simp] theorem State.setLine_label (s : State) (i : OutLine) (x : OutputLine) :
    (s.setLine i x).label = s.label := rfl

@[simp] theorem State.setLine_arbiter (s : State) (i : OutLine) (x : OutputLine) :
    (s.setLine i x).arbiter = s.arbiter := rfl

@[simp] theorem State.setLine_pending (s : State) (i : OutLine) (x : OutputLine) :
    (s.setLine i x).pending = s.pending := rfl

@[simp] theorem State.setLine_capture (s : State) (i : OutLine) (x : OutputLine) (n : CapLine) :
    (s.setLine i x).capture n = s.capture n := rfl

@[simp] theorem State.setLine_group (s : State) (i : OutLine) (x : OutputLine) (g : GroupIx) :
    (s.setLine i x).group g = s.group g := rfl

@[simp] theorem State.setLine_entry (s : State) (i : OutLine) (x : OutputLine) (e : EntryIx) :
    (s.setLine i x).entry e = s.entry e := rfl

@[simp] theorem State.setLine_queue (s : State) (i : OutLine) (x : OutputLine) (k : Master) :
    (s.setLine i x).queue k = s.queue k := rfl

@[simp] theorem State.setLine_action (s : State) (i : OutLine) (x : OutputLine) (n : Slot) :
    (s.setLine i x).action n = s.action n := rfl

@[simp] theorem State.setLine_pair (s : State) (i : OutLine) (x : OutputLine) (p : PairIx) :
    (s.setLine i x).pair p = s.pair p := rfl

@[simp] theorem State.setLine_right (s : State) (i : OutLine) (x : OutputLine) (k : Master) :
    (s.setLine i x).right k = s.right k := rfl

@[simp] theorem State.setLine_port (s : State) (i : OutLine) (x : OutputLine) (k : Master) :
    (s.setLine i x).port k = s.port k := rfl

@[simp] theorem State.setLine_self (s : State) (i : OutLine) (x : OutputLine) : (s.setLine i x).line i = x := by
  simp [State.setLine, State.line]

theorem State.setLine_line (s : State) (i : OutLine) (x : OutputLine) (j : OutLine) :
    (s.setLine i x).line j = if j = i then x else s.line j := by
  by_cases h : j = i
  · subst h; simp
  · have hv : (i : Nat) ≠ j := fun e => h (Fin.ext e.symm)
    simp [State.setLine, State.line, h, hv]

@[simp] theorem State.setLine_other (s : State) {i j : OutLine} (x : OutputLine) (h : j ≠ i) :
    (s.setLine i x).line j = s.line j := by
  rw [State.setLine_line, if_neg h]

@[simp] theorem State.setLine_now (s : State) (i : OutLine) (x : OutputLine) :
    (s.setLine i x).now = s.now := rfl

@[simp] theorem State.setLine_attachment (s : State) (i : OutLine) (x : OutputLine) (k : Master) :
    (s.setLine i x).attachment k = s.attachment k := rfl

/-! ### setPair -/

@[simp] theorem State.setPair_resetHeld (s : State) (i : PairIx) (x : Pair) :
    (s.setPair i x).resetHeld = s.resetHeld := rfl

@[simp] theorem State.setPair_capPins (s : State) (i : PairIx) (x : Pair) :
    (s.setPair i x).capPins = s.capPins := rfl

@[simp] theorem State.setPair_syncPin (s : State) (i : PairIx) (x : Pair) :
    (s.setPair i x).syncPin = s.syncPin := rfl

@[simp] theorem State.setPair_cutoffPin (s : State) (i : PairIx) (x : Pair) :
    (s.setPair i x).cutoffPin = s.cutoffPin := rfl

@[simp] theorem State.setPair_timebase (s : State) (i : PairIx) (x : Pair) :
    (s.setPair i x).timebase = s.timebase := rfl

@[simp] theorem State.setPair_cutoff (s : State) (i : PairIx) (x : Pair) :
    (s.setPair i x).cutoff = s.cutoff := rfl

@[simp] theorem State.setPair_supervisor (s : State) (i : PairIx) (x : Pair) :
    (s.setPair i x).supervisor = s.supervisor := rfl

@[simp] theorem State.setPair_label (s : State) (i : PairIx) (x : Pair) :
    (s.setPair i x).label = s.label := rfl

@[simp] theorem State.setPair_arbiter (s : State) (i : PairIx) (x : Pair) :
    (s.setPair i x).arbiter = s.arbiter := rfl

@[simp] theorem State.setPair_pending (s : State) (i : PairIx) (x : Pair) :
    (s.setPair i x).pending = s.pending := rfl

@[simp] theorem State.setPair_capture (s : State) (i : PairIx) (x : Pair) (n : CapLine) :
    (s.setPair i x).capture n = s.capture n := rfl

@[simp] theorem State.setPair_group (s : State) (i : PairIx) (x : Pair) (g : GroupIx) :
    (s.setPair i x).group g = s.group g := rfl

@[simp] theorem State.setPair_entry (s : State) (i : PairIx) (x : Pair) (e : EntryIx) :
    (s.setPair i x).entry e = s.entry e := rfl

@[simp] theorem State.setPair_queue (s : State) (i : PairIx) (x : Pair) (k : Master) :
    (s.setPair i x).queue k = s.queue k := rfl

@[simp] theorem State.setPair_action (s : State) (i : PairIx) (x : Pair) (n : Slot) :
    (s.setPair i x).action n = s.action n := rfl

@[simp] theorem State.setPair_line (s : State) (i : PairIx) (x : Pair) (l : OutLine) :
    (s.setPair i x).line l = s.line l := rfl

@[simp] theorem State.setPair_right (s : State) (i : PairIx) (x : Pair) (k : Master) :
    (s.setPair i x).right k = s.right k := rfl

@[simp] theorem State.setPair_port (s : State) (i : PairIx) (x : Pair) (k : Master) :
    (s.setPair i x).port k = s.port k := rfl

@[simp] theorem State.setPair_self (s : State) (i : PairIx) (x : Pair) : (s.setPair i x).pair i = x := by
  simp [State.setPair, State.pair]

theorem State.setPair_pair (s : State) (i : PairIx) (x : Pair) (j : PairIx) :
    (s.setPair i x).pair j = if j = i then x else s.pair j := by
  by_cases h : j = i
  · subst h; simp
  · have hv : (i : Nat) ≠ j := fun e => h (Fin.ext e.symm)
    simp [State.setPair, State.pair, h, hv]

@[simp] theorem State.setPair_other (s : State) {i j : PairIx} (x : Pair) (h : j ≠ i) :
    (s.setPair i x).pair j = s.pair j := by
  rw [State.setPair_pair, if_neg h]

@[simp] theorem State.setPair_now (s : State) (i : PairIx) (x : Pair) :
    (s.setPair i x).now = s.now := rfl

@[simp] theorem State.setPair_attachment (s : State) (i : PairIx) (x : Pair) (k : Master) :
    (s.setPair i x).attachment k = s.attachment k := rfl

/-! ### setRight -/

@[simp] theorem State.setRight_resetHeld (s : State) (i : Master) (x : Rights) :
    (s.setRight i x).resetHeld = s.resetHeld := rfl

@[simp] theorem State.setRight_capPins (s : State) (i : Master) (x : Rights) :
    (s.setRight i x).capPins = s.capPins := rfl

@[simp] theorem State.setRight_syncPin (s : State) (i : Master) (x : Rights) :
    (s.setRight i x).syncPin = s.syncPin := rfl

@[simp] theorem State.setRight_cutoffPin (s : State) (i : Master) (x : Rights) :
    (s.setRight i x).cutoffPin = s.cutoffPin := rfl

@[simp] theorem State.setRight_timebase (s : State) (i : Master) (x : Rights) :
    (s.setRight i x).timebase = s.timebase := rfl

@[simp] theorem State.setRight_cutoff (s : State) (i : Master) (x : Rights) :
    (s.setRight i x).cutoff = s.cutoff := rfl

@[simp] theorem State.setRight_supervisor (s : State) (i : Master) (x : Rights) :
    (s.setRight i x).supervisor = s.supervisor := rfl

@[simp] theorem State.setRight_label (s : State) (i : Master) (x : Rights) :
    (s.setRight i x).label = s.label := rfl

@[simp] theorem State.setRight_arbiter (s : State) (i : Master) (x : Rights) :
    (s.setRight i x).arbiter = s.arbiter := rfl

@[simp] theorem State.setRight_pending (s : State) (i : Master) (x : Rights) :
    (s.setRight i x).pending = s.pending := rfl

@[simp] theorem State.setRight_capture (s : State) (i : Master) (x : Rights) (n : CapLine) :
    (s.setRight i x).capture n = s.capture n := rfl

@[simp] theorem State.setRight_group (s : State) (i : Master) (x : Rights) (g : GroupIx) :
    (s.setRight i x).group g = s.group g := rfl

@[simp] theorem State.setRight_entry (s : State) (i : Master) (x : Rights) (e : EntryIx) :
    (s.setRight i x).entry e = s.entry e := rfl

@[simp] theorem State.setRight_queue (s : State) (i : Master) (x : Rights) (k : Master) :
    (s.setRight i x).queue k = s.queue k := rfl

@[simp] theorem State.setRight_action (s : State) (i : Master) (x : Rights) (n : Slot) :
    (s.setRight i x).action n = s.action n := rfl

@[simp] theorem State.setRight_line (s : State) (i : Master) (x : Rights) (l : OutLine) :
    (s.setRight i x).line l = s.line l := rfl

@[simp] theorem State.setRight_pair (s : State) (i : Master) (x : Rights) (p : PairIx) :
    (s.setRight i x).pair p = s.pair p := rfl

@[simp] theorem State.setRight_port (s : State) (i : Master) (x : Rights) (k : Master) :
    (s.setRight i x).port k = s.port k := rfl

@[simp] theorem State.setRight_self (s : State) (i : Master) (x : Rights) : (s.setRight i x).right i = x := by
  simp [State.setRight, State.right]

theorem State.setRight_right (s : State) (i : Master) (x : Rights) (j : Master) :
    (s.setRight i x).right j = if j = i then x else s.right j := by
  by_cases h : j = i
  · subst h; simp
  · have hv : (i : Nat) ≠ j := fun e => h (Fin.ext e.symm)
    simp [State.setRight, State.right, h, hv]

@[simp] theorem State.setRight_other (s : State) {i j : Master} (x : Rights) (h : j ≠ i) :
    (s.setRight i x).right j = s.right j := by
  rw [State.setRight_right, if_neg h]

@[simp] theorem State.setRight_now (s : State) (i : Master) (x : Rights) :
    (s.setRight i x).now = s.now := rfl

@[simp] theorem State.setRight_attachment (s : State) (i : Master) (x : Rights) (k : Master) :
    (s.setRight i x).attachment k = s.attachment k := rfl

/-! ### setPort -/

@[simp] theorem State.setPort_resetHeld (s : State) (i : Master) (x : Port) :
    (s.setPort i x).resetHeld = s.resetHeld := rfl

@[simp] theorem State.setPort_capPins (s : State) (i : Master) (x : Port) :
    (s.setPort i x).capPins = s.capPins := rfl

@[simp] theorem State.setPort_syncPin (s : State) (i : Master) (x : Port) :
    (s.setPort i x).syncPin = s.syncPin := rfl

@[simp] theorem State.setPort_cutoffPin (s : State) (i : Master) (x : Port) :
    (s.setPort i x).cutoffPin = s.cutoffPin := rfl

@[simp] theorem State.setPort_timebase (s : State) (i : Master) (x : Port) :
    (s.setPort i x).timebase = s.timebase := rfl

@[simp] theorem State.setPort_cutoff (s : State) (i : Master) (x : Port) :
    (s.setPort i x).cutoff = s.cutoff := rfl

@[simp] theorem State.setPort_supervisor (s : State) (i : Master) (x : Port) :
    (s.setPort i x).supervisor = s.supervisor := rfl

@[simp] theorem State.setPort_label (s : State) (i : Master) (x : Port) :
    (s.setPort i x).label = s.label := rfl

@[simp] theorem State.setPort_arbiter (s : State) (i : Master) (x : Port) :
    (s.setPort i x).arbiter = s.arbiter := rfl

@[simp] theorem State.setPort_pending (s : State) (i : Master) (x : Port) :
    (s.setPort i x).pending = s.pending := rfl

@[simp] theorem State.setPort_capture (s : State) (i : Master) (x : Port) (n : CapLine) :
    (s.setPort i x).capture n = s.capture n := rfl

@[simp] theorem State.setPort_group (s : State) (i : Master) (x : Port) (g : GroupIx) :
    (s.setPort i x).group g = s.group g := rfl

@[simp] theorem State.setPort_entry (s : State) (i : Master) (x : Port) (e : EntryIx) :
    (s.setPort i x).entry e = s.entry e := rfl

@[simp] theorem State.setPort_queue (s : State) (i : Master) (x : Port) (k : Master) :
    (s.setPort i x).queue k = s.queue k := rfl

@[simp] theorem State.setPort_action (s : State) (i : Master) (x : Port) (n : Slot) :
    (s.setPort i x).action n = s.action n := rfl

@[simp] theorem State.setPort_line (s : State) (i : Master) (x : Port) (l : OutLine) :
    (s.setPort i x).line l = s.line l := rfl

@[simp] theorem State.setPort_pair (s : State) (i : Master) (x : Port) (p : PairIx) :
    (s.setPort i x).pair p = s.pair p := rfl

@[simp] theorem State.setPort_right (s : State) (i : Master) (x : Port) (k : Master) :
    (s.setPort i x).right k = s.right k := rfl

@[simp] theorem State.setPort_self (s : State) (i : Master) (x : Port) : (s.setPort i x).port i = x := by
  simp [State.setPort, State.port]

theorem State.setPort_port (s : State) (i : Master) (x : Port) (j : Master) :
    (s.setPort i x).port j = if j = i then x else s.port j := by
  by_cases h : j = i
  · subst h; simp
  · have hv : (i : Nat) ≠ j := fun e => h (Fin.ext e.symm)
    simp [State.setPort, State.port, h, hv]

@[simp] theorem State.setPort_other (s : State) {i j : Master} (x : Port) (h : j ≠ i) :
    (s.setPort i x).port j = s.port j := by
  rw [State.setPort_port, if_neg h]

@[simp] theorem State.setPort_now (s : State) (i : Master) (x : Port) :
    (s.setPort i x).now = s.now := rfl

/-! ### setAttachment -/

@[simp] theorem State.setAttachment_resetHeld (s : State) (i : Master) (x : Attachment) :
    (s.setAttachment i x).resetHeld = s.resetHeld := rfl

@[simp] theorem State.setAttachment_capPins (s : State) (i : Master) (x : Attachment) :
    (s.setAttachment i x).capPins = s.capPins := rfl

@[simp] theorem State.setAttachment_syncPin (s : State) (i : Master) (x : Attachment) :
    (s.setAttachment i x).syncPin = s.syncPin := rfl

@[simp] theorem State.setAttachment_cutoffPin (s : State) (i : Master) (x : Attachment) :
    (s.setAttachment i x).cutoffPin = s.cutoffPin := rfl

@[simp] theorem State.setAttachment_timebase (s : State) (i : Master) (x : Attachment) :
    (s.setAttachment i x).timebase = s.timebase := rfl

@[simp] theorem State.setAttachment_cutoff (s : State) (i : Master) (x : Attachment) :
    (s.setAttachment i x).cutoff = s.cutoff := rfl

@[simp] theorem State.setAttachment_supervisor (s : State) (i : Master) (x : Attachment) :
    (s.setAttachment i x).supervisor = s.supervisor := rfl

@[simp] theorem State.setAttachment_label (s : State) (i : Master) (x : Attachment) :
    (s.setAttachment i x).label = s.label := rfl

@[simp] theorem State.setAttachment_arbiter (s : State) (i : Master) (x : Attachment) :
    (s.setAttachment i x).arbiter = s.arbiter := rfl

@[simp] theorem State.setAttachment_pending (s : State) (i : Master) (x : Attachment) :
    (s.setAttachment i x).pending = s.pending := rfl

@[simp] theorem State.setAttachment_capture (s : State) (i : Master) (x : Attachment) (n : CapLine) :
    (s.setAttachment i x).capture n = s.capture n := rfl

@[simp] theorem State.setAttachment_group (s : State) (i : Master) (x : Attachment) (g : GroupIx) :
    (s.setAttachment i x).group g = s.group g := rfl

@[simp] theorem State.setAttachment_entry (s : State) (i : Master) (x : Attachment) (e : EntryIx) :
    (s.setAttachment i x).entry e = s.entry e := rfl

@[simp] theorem State.setAttachment_queue (s : State) (i : Master) (x : Attachment) (k : Master) :
    (s.setAttachment i x).queue k = s.queue k := rfl

@[simp] theorem State.setAttachment_action (s : State) (i : Master) (x : Attachment) (n : Slot) :
    (s.setAttachment i x).action n = s.action n := rfl

@[simp] theorem State.setAttachment_line (s : State) (i : Master) (x : Attachment) (l : OutLine) :
    (s.setAttachment i x).line l = s.line l := rfl

@[simp] theorem State.setAttachment_pair (s : State) (i : Master) (x : Attachment) (p : PairIx) :
    (s.setAttachment i x).pair p = s.pair p := rfl

@[simp] theorem State.setAttachment_right (s : State) (i : Master) (x : Attachment) (k : Master) :
    (s.setAttachment i x).right k = s.right k := rfl

@[simp] theorem State.setAttachment_now (s : State) (i : Master) (x : Attachment) :
    (s.setAttachment i x).now = s.now := rfl

/-! ### answer -/

@[simp] theorem State.answer_resetHeld (s : State) (i : Master) (code : Byte) (x : Answer) :
    (s.answer i code x).resetHeld = s.resetHeld := rfl

@[simp] theorem State.answer_capPins (s : State) (i : Master) (code : Byte) (x : Answer) :
    (s.answer i code x).capPins = s.capPins := rfl

@[simp] theorem State.answer_syncPin (s : State) (i : Master) (code : Byte) (x : Answer) :
    (s.answer i code x).syncPin = s.syncPin := rfl

@[simp] theorem State.answer_cutoffPin (s : State) (i : Master) (code : Byte) (x : Answer) :
    (s.answer i code x).cutoffPin = s.cutoffPin := rfl

@[simp] theorem State.answer_timebase (s : State) (i : Master) (code : Byte) (x : Answer) :
    (s.answer i code x).timebase = s.timebase := rfl

@[simp] theorem State.answer_cutoff (s : State) (i : Master) (code : Byte) (x : Answer) :
    (s.answer i code x).cutoff = s.cutoff := rfl

@[simp] theorem State.answer_supervisor (s : State) (i : Master) (code : Byte) (x : Answer) :
    (s.answer i code x).supervisor = s.supervisor := rfl

@[simp] theorem State.answer_label (s : State) (i : Master) (code : Byte) (x : Answer) :
    (s.answer i code x).label = s.label := rfl

@[simp] theorem State.answer_arbiter (s : State) (i : Master) (code : Byte) (x : Answer) :
    (s.answer i code x).arbiter = s.arbiter := rfl

@[simp] theorem State.answer_pending (s : State) (i : Master) (code : Byte) (x : Answer) :
    (s.answer i code x).pending = s.pending := rfl

@[simp] theorem State.answer_capture (s : State) (i : Master) (code : Byte) (x : Answer) (n : CapLine) :
    (s.answer i code x).capture n = s.capture n := rfl

@[simp] theorem State.answer_group (s : State) (i : Master) (code : Byte) (x : Answer) (g : GroupIx) :
    (s.answer i code x).group g = s.group g := rfl

@[simp] theorem State.answer_entry (s : State) (i : Master) (code : Byte) (x : Answer) (e : EntryIx) :
    (s.answer i code x).entry e = s.entry e := rfl

@[simp] theorem State.answer_queue (s : State) (i : Master) (code : Byte) (x : Answer) (k : Master) :
    (s.answer i code x).queue k = s.queue k := rfl

@[simp] theorem State.answer_action (s : State) (i : Master) (code : Byte) (x : Answer) (n : Slot) :
    (s.answer i code x).action n = s.action n := rfl

@[simp] theorem State.answer_line (s : State) (i : Master) (code : Byte) (x : Answer) (l : OutLine) :
    (s.answer i code x).line l = s.line l := rfl

@[simp] theorem State.answer_pair (s : State) (i : Master) (code : Byte) (x : Answer) (p : PairIx) :
    (s.answer i code x).pair p = s.pair p := rfl

@[simp] theorem State.answer_right (s : State) (i : Master) (code : Byte) (x : Answer) (k : Master) :
    (s.answer i code x).right k = s.right k := rfl

@[simp] theorem State.answer_now (s : State) (i : Master) (code : Byte) (x : Answer) :
    (s.answer i code x).now = s.now := rfl

/-! ### changeLines -/

@[simp] theorem State.changeLines_resetHeld (s : State) (on : OutLine → Bool) (f : OutputLine → OutputLine) :
    (s.changeLines on f).resetHeld = s.resetHeld := rfl

@[simp] theorem State.changeLines_capPins (s : State) (on : OutLine → Bool) (f : OutputLine → OutputLine) :
    (s.changeLines on f).capPins = s.capPins := rfl

@[simp] theorem State.changeLines_syncPin (s : State) (on : OutLine → Bool) (f : OutputLine → OutputLine) :
    (s.changeLines on f).syncPin = s.syncPin := rfl

@[simp] theorem State.changeLines_cutoffPin (s : State) (on : OutLine → Bool) (f : OutputLine → OutputLine) :
    (s.changeLines on f).cutoffPin = s.cutoffPin := rfl

@[simp] theorem State.changeLines_timebase (s : State) (on : OutLine → Bool) (f : OutputLine → OutputLine) :
    (s.changeLines on f).timebase = s.timebase := rfl

@[simp] theorem State.changeLines_cutoff (s : State) (on : OutLine → Bool) (f : OutputLine → OutputLine) :
    (s.changeLines on f).cutoff = s.cutoff := rfl

@[simp] theorem State.changeLines_supervisor (s : State) (on : OutLine → Bool) (f : OutputLine → OutputLine) :
    (s.changeLines on f).supervisor = s.supervisor := rfl

@[simp] theorem State.changeLines_label (s : State) (on : OutLine → Bool) (f : OutputLine → OutputLine) :
    (s.changeLines on f).label = s.label := rfl

@[simp] theorem State.changeLines_arbiter (s : State) (on : OutLine → Bool) (f : OutputLine → OutputLine) :
    (s.changeLines on f).arbiter = s.arbiter := rfl

@[simp] theorem State.changeLines_pending (s : State) (on : OutLine → Bool) (f : OutputLine → OutputLine) :
    (s.changeLines on f).pending = s.pending := rfl

@[simp] theorem State.changeLines_capture (s : State) (on : OutLine → Bool) (f : OutputLine → OutputLine) (n : CapLine) :
    (s.changeLines on f).capture n = s.capture n := rfl

@[simp] theorem State.changeLines_group (s : State) (on : OutLine → Bool) (f : OutputLine → OutputLine) (g : GroupIx) :
    (s.changeLines on f).group g = s.group g := rfl

@[simp] theorem State.changeLines_entry (s : State) (on : OutLine → Bool) (f : OutputLine → OutputLine) (e : EntryIx) :
    (s.changeLines on f).entry e = s.entry e := rfl

@[simp] theorem State.changeLines_queue (s : State) (on : OutLine → Bool) (f : OutputLine → OutputLine) (k : Master) :
    (s.changeLines on f).queue k = s.queue k := rfl

@[simp] theorem State.changeLines_action (s : State) (on : OutLine → Bool) (f : OutputLine → OutputLine) (n : Slot) :
    (s.changeLines on f).action n = s.action n := rfl

@[simp] theorem State.changeLines_pair (s : State) (on : OutLine → Bool) (f : OutputLine → OutputLine) (p : PairIx) :
    (s.changeLines on f).pair p = s.pair p := rfl

@[simp] theorem State.changeLines_right (s : State) (on : OutLine → Bool) (f : OutputLine → OutputLine) (k : Master) :
    (s.changeLines on f).right k = s.right k := rfl

@[simp] theorem State.changeLines_port (s : State) (on : OutLine → Bool) (f : OutputLine → OutputLine) (k : Master) :
    (s.changeLines on f).port k = s.port k := rfl

@[simp] theorem State.changeLines_now (s : State) (on : OutLine → Bool) (f : OutputLine → OutputLine) :
    (s.changeLines on f).now = s.now := rfl

@[simp] theorem State.changeLines_attachment (s : State) (on : OutLine → Bool) (f : OutputLine → OutputLine) (k : Master) :
    (s.changeLines on f).attachment k = s.attachment k := rfl

/-! ### clearPairs -/

@[simp] theorem State.clearPairs_resetHeld (s : State) (on : OutLine → Bool) :
    (s.clearPairs on).resetHeld = s.resetHeld := rfl

@[simp] theorem State.clearPairs_capPins (s : State) (on : OutLine → Bool) :
    (s.clearPairs on).capPins = s.capPins := rfl

@[simp] theorem State.clearPairs_syncPin (s : State) (on : OutLine → Bool) :
    (s.clearPairs on).syncPin = s.syncPin := rfl

@[simp] theorem State.clearPairs_cutoffPin (s : State) (on : OutLine → Bool) :
    (s.clearPairs on).cutoffPin = s.cutoffPin := rfl

@[simp] theorem State.clearPairs_timebase (s : State) (on : OutLine → Bool) :
    (s.clearPairs on).timebase = s.timebase := rfl

@[simp] theorem State.clearPairs_cutoff (s : State) (on : OutLine → Bool) :
    (s.clearPairs on).cutoff = s.cutoff := rfl

@[simp] theorem State.clearPairs_supervisor (s : State) (on : OutLine → Bool) :
    (s.clearPairs on).supervisor = s.supervisor := rfl

@[simp] theorem State.clearPairs_label (s : State) (on : OutLine → Bool) :
    (s.clearPairs on).label = s.label := rfl

@[simp] theorem State.clearPairs_arbiter (s : State) (on : OutLine → Bool) :
    (s.clearPairs on).arbiter = s.arbiter := rfl

@[simp] theorem State.clearPairs_pending (s : State) (on : OutLine → Bool) :
    (s.clearPairs on).pending = s.pending := rfl

@[simp] theorem State.clearPairs_capture (s : State) (on : OutLine → Bool) (n : CapLine) :
    (s.clearPairs on).capture n = s.capture n := rfl

@[simp] theorem State.clearPairs_group (s : State) (on : OutLine → Bool) (g : GroupIx) :
    (s.clearPairs on).group g = s.group g := rfl

@[simp] theorem State.clearPairs_entry (s : State) (on : OutLine → Bool) (e : EntryIx) :
    (s.clearPairs on).entry e = s.entry e := rfl

@[simp] theorem State.clearPairs_queue (s : State) (on : OutLine → Bool) (k : Master) :
    (s.clearPairs on).queue k = s.queue k := rfl

@[simp] theorem State.clearPairs_action (s : State) (on : OutLine → Bool) (n : Slot) :
    (s.clearPairs on).action n = s.action n := rfl

@[simp] theorem State.clearPairs_line (s : State) (on : OutLine → Bool) (l : OutLine) :
    (s.clearPairs on).line l = s.line l := rfl

@[simp] theorem State.clearPairs_right (s : State) (on : OutLine → Bool) (k : Master) :
    (s.clearPairs on).right k = s.right k := rfl

@[simp] theorem State.clearPairs_port (s : State) (on : OutLine → Bool) (k : Master) :
    (s.clearPairs on).port k = s.port k := rfl

@[simp] theorem State.clearPairs_now (s : State) (on : OutLine → Bool) :
    (s.clearPairs on).now = s.now := rfl

@[simp] theorem State.clearPairs_attachment (s : State) (on : OutLine → Bool) (k : Master) :
    (s.clearPairs on).attachment k = s.attachment k := rfl

/-! ### dropRecords -/

@[simp] theorem State.dropRecords_resetHeld (s : State) (q : ActionRecord → Bool) :
    (s.dropRecords q).resetHeld = s.resetHeld := by
  simp only [State.dropRecords]

@[simp] theorem State.dropRecords_capPins (s : State) (q : ActionRecord → Bool) :
    (s.dropRecords q).capPins = s.capPins := by
  simp only [State.dropRecords]

@[simp] theorem State.dropRecords_syncPin (s : State) (q : ActionRecord → Bool) :
    (s.dropRecords q).syncPin = s.syncPin := by
  simp only [State.dropRecords]

@[simp] theorem State.dropRecords_cutoffPin (s : State) (q : ActionRecord → Bool) :
    (s.dropRecords q).cutoffPin = s.cutoffPin := by
  simp only [State.dropRecords]

@[simp] theorem State.dropRecords_timebase (s : State) (q : ActionRecord → Bool) :
    (s.dropRecords q).timebase = s.timebase := by
  simp only [State.dropRecords]

@[simp] theorem State.dropRecords_cutoff (s : State) (q : ActionRecord → Bool) :
    (s.dropRecords q).cutoff = s.cutoff := by
  simp only [State.dropRecords]

@[simp] theorem State.dropRecords_supervisor (s : State) (q : ActionRecord → Bool) :
    (s.dropRecords q).supervisor = s.supervisor := by
  simp only [State.dropRecords]

@[simp] theorem State.dropRecords_label (s : State) (q : ActionRecord → Bool) :
    (s.dropRecords q).label = s.label := by
  simp only [State.dropRecords]

@[simp] theorem State.dropRecords_arbiter (s : State) (q : ActionRecord → Bool) :
    (s.dropRecords q).arbiter = s.arbiter := by
  simp only [State.dropRecords]

@[simp] theorem State.dropRecords_pending (s : State) (q : ActionRecord → Bool) :
    (s.dropRecords q).pending = s.pending := by
  simp only [State.dropRecords]

@[simp] theorem State.dropRecords_capture (s : State) (q : ActionRecord → Bool) (n : CapLine) :
    (s.dropRecords q).capture n = s.capture n := by
  simp only [State.dropRecords, State.capture]

@[simp] theorem State.dropRecords_group (s : State) (q : ActionRecord → Bool) (g : GroupIx) :
    (s.dropRecords q).group g = s.group g := by
  simp only [State.dropRecords, State.group]

@[simp] theorem State.dropRecords_entry (s : State) (q : ActionRecord → Bool) (e : EntryIx) :
    (s.dropRecords q).entry e = s.entry e := by
  simp only [State.dropRecords, State.entry]

@[simp] theorem State.dropRecords_queue (s : State) (q : ActionRecord → Bool) (k : Master) :
    (s.dropRecords q).queue k = s.queue k := by
  simp only [State.dropRecords, State.queue]

@[simp] theorem State.dropRecords_line (s : State) (q : ActionRecord → Bool) (l : OutLine) :
    (s.dropRecords q).line l = s.line l := by
  simp only [State.dropRecords, State.line]

@[simp] theorem State.dropRecords_pair (s : State) (q : ActionRecord → Bool) (p : PairIx) :
    (s.dropRecords q).pair p = s.pair p := by
  simp only [State.dropRecords, State.pair]

@[simp] theorem State.dropRecords_right (s : State) (q : ActionRecord → Bool) (k : Master) :
    (s.dropRecords q).right k = s.right k := by
  simp only [State.dropRecords, State.right]

@[simp] theorem State.dropRecords_port (s : State) (q : ActionRecord → Bool) (k : Master) :
    (s.dropRecords q).port k = s.port k := by
  simp only [State.dropRecords, State.port]

@[simp] theorem State.dropRecords_now (s : State) (q : ActionRecord → Bool) :
    (s.dropRecords q).now = s.now := by
  simp only [State.dropRecords, State.now]

@[simp] theorem State.dropRecords_attachment (s : State) (q : ActionRecord → Bool) (k : Master) :
    (s.dropRecords q).attachment k = s.attachment k := by
  simp only [State.dropRecords, State.attachment, State.port]

/-! ### rebase -/

@[simp] theorem State.rebase_resetHeld (s : State) (c v : Count) :
    (s.rebase c v).resetHeld = s.resetHeld := by
  simp only [State.rebase]

@[simp] theorem State.rebase_capPins (s : State) (c v : Count) :
    (s.rebase c v).capPins = s.capPins := by
  simp only [State.rebase]

@[simp] theorem State.rebase_syncPin (s : State) (c v : Count) :
    (s.rebase c v).syncPin = s.syncPin := by
  simp only [State.rebase]

@[simp] theorem State.rebase_cutoffPin (s : State) (c v : Count) :
    (s.rebase c v).cutoffPin = s.cutoffPin := by
  simp only [State.rebase]

@[simp] theorem State.rebase_timebase (s : State) (c v : Count) :
    (s.rebase c v).timebase = s.timebase := by
  simp only [State.rebase]

@[simp] theorem State.rebase_cutoff (s : State) (c v : Count) :
    (s.rebase c v).cutoff = s.cutoff := by
  simp only [State.rebase]

@[simp] theorem State.rebase_supervisor (s : State) (c v : Count) :
    (s.rebase c v).supervisor = s.supervisor := by
  simp only [State.rebase]

@[simp] theorem State.rebase_label (s : State) (c v : Count) :
    (s.rebase c v).label = s.label := by
  simp only [State.rebase]

@[simp] theorem State.rebase_arbiter (s : State) (c v : Count) :
    (s.rebase c v).arbiter = s.arbiter := by
  simp only [State.rebase]

@[simp] theorem State.rebase_pending (s : State) (c v : Count) :
    (s.rebase c v).pending = s.pending := by
  simp only [State.rebase]

@[simp] theorem State.rebase_capture (s : State) (c v : Count) (n : CapLine) :
    (s.rebase c v).capture n = s.capture n := by
  simp only [State.rebase, State.capture]

@[simp] theorem State.rebase_group (s : State) (c v : Count) (g : GroupIx) :
    (s.rebase c v).group g = s.group g := by
  simp only [State.rebase, State.group]

@[simp] theorem State.rebase_entry (s : State) (c v : Count) (e : EntryIx) :
    (s.rebase c v).entry e = s.entry e := by
  simp only [State.rebase, State.entry]

@[simp] theorem State.rebase_queue (s : State) (c v : Count) (k : Master) :
    (s.rebase c v).queue k = s.queue k := by
  simp only [State.rebase, State.queue]

@[simp] theorem State.rebase_line (s : State) (c v : Count) (l : OutLine) :
    (s.rebase c v).line l = s.line l := by
  simp only [State.rebase, State.line]

@[simp] theorem State.rebase_pair (s : State) (c v : Count) (p : PairIx) :
    (s.rebase c v).pair p = s.pair p := by
  simp only [State.rebase, State.pair]

@[simp] theorem State.rebase_right (s : State) (c v : Count) (k : Master) :
    (s.rebase c v).right k = s.right k := by
  simp only [State.rebase, State.right]

@[simp] theorem State.rebase_port (s : State) (c v : Count) (k : Master) :
    (s.rebase c v).port k = s.port k := by
  simp only [State.rebase, State.port]

@[simp] theorem State.rebase_now (s : State) (c v : Count) :
    (s.rebase c v).now = s.now := by
  simp only [State.rebase, State.now]

@[simp] theorem State.rebase_attachment (s : State) (c v : Count) (k : Master) :
    (s.rebase c v).attachment k = s.attachment k := by
  simp only [State.rebase, State.attachment, State.port]

/-! ### tickDeadTimes -/

@[simp] theorem State.tickDeadTimes_resetHeld (s : State) :
    (s.tickDeadTimes).resetHeld = s.resetHeld := rfl

@[simp] theorem State.tickDeadTimes_capPins (s : State) :
    (s.tickDeadTimes).capPins = s.capPins := rfl

@[simp] theorem State.tickDeadTimes_syncPin (s : State) :
    (s.tickDeadTimes).syncPin = s.syncPin := rfl

@[simp] theorem State.tickDeadTimes_cutoffPin (s : State) :
    (s.tickDeadTimes).cutoffPin = s.cutoffPin := rfl

@[simp] theorem State.tickDeadTimes_timebase (s : State) :
    (s.tickDeadTimes).timebase = s.timebase := rfl

@[simp] theorem State.tickDeadTimes_cutoff (s : State) :
    (s.tickDeadTimes).cutoff = s.cutoff := rfl

@[simp] theorem State.tickDeadTimes_supervisor (s : State) :
    (s.tickDeadTimes).supervisor = s.supervisor := rfl

@[simp] theorem State.tickDeadTimes_label (s : State) :
    (s.tickDeadTimes).label = s.label := rfl

@[simp] theorem State.tickDeadTimes_arbiter (s : State) :
    (s.tickDeadTimes).arbiter = s.arbiter := rfl

@[simp] theorem State.tickDeadTimes_pending (s : State) :
    (s.tickDeadTimes).pending = s.pending := rfl

@[simp] theorem State.tickDeadTimes_capture (s : State) (n : CapLine) :
    (s.tickDeadTimes).capture n = s.capture n := rfl

@[simp] theorem State.tickDeadTimes_group (s : State) (g : GroupIx) :
    (s.tickDeadTimes).group g = s.group g := rfl

@[simp] theorem State.tickDeadTimes_entry (s : State) (e : EntryIx) :
    (s.tickDeadTimes).entry e = s.entry e := rfl

@[simp] theorem State.tickDeadTimes_queue (s : State) (k : Master) :
    (s.tickDeadTimes).queue k = s.queue k := rfl

@[simp] theorem State.tickDeadTimes_action (s : State) (n : Slot) :
    (s.tickDeadTimes).action n = s.action n := rfl

@[simp] theorem State.tickDeadTimes_line (s : State) (l : OutLine) :
    (s.tickDeadTimes).line l = s.line l := rfl

@[simp] theorem State.tickDeadTimes_right (s : State) (k : Master) :
    (s.tickDeadTimes).right k = s.right k := rfl

@[simp] theorem State.tickDeadTimes_port (s : State) (k : Master) :
    (s.tickDeadTimes).port k = s.port k := rfl

@[simp] theorem State.tickDeadTimes_now (s : State) :
    (s.tickDeadTimes).now = s.now := rfl

@[simp] theorem State.tickDeadTimes_attachment (s : State) (k : Master) :
    (s.tickDeadTimes).attachment k = s.attachment k := rfl

/-! ### Updates of every element at once, and of a port -/

@[simp] theorem State.changeLines_line (s : State) (on : OutLine → Bool) (f : OutputLine → OutputLine) (l : OutLine) :
    (s.changeLines on f).line l = if on l then f (s.line l) else s.line l := by
  simp [State.changeLines, State.line]

@[simp] theorem State.clearPairs_pair (s : State) (on : OutLine → Bool) (p : PairIx) :
    (s.clearPairs on).pair p = if s.complement p && on (lineA p) then (s.pair p).cleared else s.pair p := by
  simp [State.clearPairs, State.pair]

@[simp] theorem State.dropRecords_action (s : State) (q : ActionRecord → Bool) (n : Slot) :
    (s.dropRecords q).action n =
      (match s.action n with
        | some r => if q r then none else some r
        | none => none) := by
  unfold State.dropRecords State.action
  simp only [Fin.getElem_fin, Vector.getElem_ofFn]
  all_goals rfl

@[simp] theorem State.rebase_action (s : State) (c v : Count) (n : Slot) :
    (s.rebase c v).action n = (s.action n).map fun r => r.shift (v - c) := by
  simp only [State.rebase, State.action, Fin.getElem_fin, Vector.getElem_ofFn]
  split <;> simp_all

@[simp] theorem State.tickDeadTimes_pair (s : State) (p : PairIx) :
    (s.tickDeadTimes).pair p = { s.pair p with record := (s.pair p).record.map DeadTimeRecord.tick } := by
  simp [State.tickDeadTimes, State.pair]

theorem State.setPort_attachment (s : State) (i : Master) (x : Port) (k : Master) :
    (s.setPort i x).attachment k = if k = i then x.attachment else s.attachment k := by
  unfold State.attachment
  rw [State.setPort_port]
  split <;> rfl

theorem State.setAttachment_port (s : State) (i : Master) (x : Attachment) (k : Master) :
    (s.setAttachment i x).port k = if k = i then { s.port i with attachment := x } else s.port k := by
  unfold State.setAttachment
  rw [State.setPort_port]

@[simp] theorem State.setAttachment_self (s : State) (i : Master) (x : Attachment) :
    (s.setAttachment i x).attachment i = x := by
  simp [State.attachment, State.setAttachment]

theorem State.setAttachment_attachment (s : State) (i : Master) (x : Attachment) (k : Master) :
    (s.setAttachment i x).attachment k = if k = i then x else s.attachment k := by
  unfold State.attachment
  rw [State.setAttachment_port]
  split
  · rfl
  · rfl

theorem State.answer_port (s : State) (i : Master) (code : Byte) (x : Answer) (k : Master) :
    (s.answer i code x).port k =
      if k = i then
        { s.port i with execution := some (.built ⟨x.status, code, false, false, x.restricted, x.payload⟩) }
      else s.port k := by
  unfold State.answer
  rw [State.setPort_port]

/-- Building a response changes no attachment state. -/
@[simp] theorem State.answer_attachment (s : State) (i : Master) (code : Byte) (x : Answer) (k : Master) :
    (s.answer i code x).attachment k = s.attachment k := by
  unfold State.attachment
  rw [State.answer_port]
  split
  · next h => subst h; rfl
  · rfl

/-! ### Extensionality by parts -/

theorem State.ports_ext {a b : Vector Port 4} (h : ∀ k : Master, a[k] = b[k]) : a = b := by
  apply Vector.ext
  intro i hi
  exact h ⟨i, hi⟩

end Sys2Proof.Machine
end

