-- ==== Sys2Proof/Laws/Ops.lean ====
section
/-! SUPPORT. What the shared operations of Machine/Ops.lean do, said once: a command at its port, an event, hand-offs in an order
the spec leaves open, sets of members. -/
namespace Sys2Proof.Machine

/-! ### The state a block finds -/

theorem State.front_eq (s : State) (m : Master) : ∃ p, s.front m = s.setPort m p ∧ p.attachment = s.attachment m := by
  unfold State.front
  split
  · refine ⟨s.port m, ?_, rfl⟩
    cases s
    simp [State.setPort, State.port]
  · refine ⟨_, rfl, ?_⟩
    unfold Port.accept Port.place State.attachment
    dsimp only
    split <;> rfl

@[simp] theorem State.front_resetHeld (s : State) (m : Master) : (s.front m).resetHeld = s.resetHeld := by
  obtain ⟨p, h, -⟩ := s.front_eq m; rw [h]; rfl
@[simp] theorem State.front_capPins (s : State) (m : Master) : (s.front m).capPins = s.capPins := by
  obtain ⟨p, h, -⟩ := s.front_eq m; rw [h]; rfl
@[simp] theorem State.front_syncPin (s : State) (m : Master) : (s.front m).syncPin = s.syncPin := by
  obtain ⟨p, h, -⟩ := s.front_eq m; rw [h]; rfl
@[simp] theorem State.front_cutoffPin (s : State) (m : Master) : (s.front m).cutoffPin = s.cutoffPin := by
  obtain ⟨p, h, -⟩ := s.front_eq m; rw [h]; rfl
@[simp] theorem State.front_timebase (s : State) (m : Master) : (s.front m).timebase = s.timebase := by
  obtain ⟨p, h, -⟩ := s.front_eq m; rw [h]; rfl
@[simp] theorem State.front_cutoff (s : State) (m : Master) : (s.front m).cutoff = s.cutoff := by
  obtain ⟨p, h, -⟩ := s.front_eq m; rw [h]; rfl
@[simp] theorem State.front_supervisor (s : State) (m : Master) : (s.front m).supervisor = s.supervisor := by
  obtain ⟨p, h, -⟩ := s.front_eq m; rw [h]; rfl
@[simp] theorem State.front_label (s : State) (m : Master) : (s.front m).label = s.label := by
  obtain ⟨p, h, -⟩ := s.front_eq m; rw [h]; rfl
@[simp] theorem State.front_arbiter (s : State) (m : Master) : (s.front m).arbiter = s.arbiter := by
  obtain ⟨p, h, -⟩ := s.front_eq m; rw [h]; rfl
@[simp] theorem State.front_pending (s : State) (m : Master) : (s.front m).pending = s.pending := by
  obtain ⟨p, h, -⟩ := s.front_eq m; rw [h]; rfl
@[simp] theorem State.front_captures (s : State) (m : Master) : (s.front m).captures = s.captures := by
  obtain ⟨p, h, -⟩ := s.front_eq m; rw [h]; rfl
@[simp] theorem State.front_groups (s : State) (m : Master) : (s.front m).groups = s.groups := by
  obtain ⟨p, h, -⟩ := s.front_eq m; rw [h]; rfl
@[simp] theorem State.front_entries (s : State) (m : Master) : (s.front m).entries = s.entries := by
  obtain ⟨p, h, -⟩ := s.front_eq m; rw [h]; rfl
@[simp] theorem State.front_queues (s : State) (m : Master) : (s.front m).queues = s.queues := by
  obtain ⟨p, h, -⟩ := s.front_eq m; rw [h]; rfl
@[simp] theorem State.front_actions (s : State) (m : Master) : (s.front m).actions = s.actions := by
  obtain ⟨p, h, -⟩ := s.front_eq m; rw [h]; rfl
@[simp] theorem State.front_lines (s : State) (m : Master) : (s.front m).lines = s.lines := by
  obtain ⟨p, h, -⟩ := s.front_eq m; rw [h]; rfl
@[simp] theorem State.front_pairs (s : State) (m : Master) : (s.front m).pairs = s.pairs := by
  obtain ⟨p, h, -⟩ := s.front_eq m; rw [h]; rfl
@[simp] theorem State.front_rights (s : State) (m : Master) : (s.front m).rights = s.rights := by
  obtain ⟨p, h, -⟩ := s.front_eq m; rw [h]; rfl
@[simp] theorem State.front_capture (s : State) (m : Master) (n : CapLine) : (s.front m).capture n = s.capture n := by
  simp only [State.capture, State.front_captures]
@[simp] theorem State.front_group (s : State) (m : Master) (g : GroupIx) : (s.front m).group g = s.group g := by
  simp only [State.group, State.front_groups]
@[simp] theorem State.front_entry (s : State) (m : Master) (e : EntryIx) : (s.front m).entry e = s.entry e := by
  simp only [State.entry, State.front_entries]
@[simp] theorem State.front_queue (s : State) (m k : Master) : (s.front m).queue k = s.queue k := by
  simp only [State.queue, State.front_queues]
@[simp] theorem State.front_action (s : State) (m : Master) (n : Slot) : (s.front m).action n = s.action n := by
  simp only [State.action, State.front_actions]
@[simp] theorem State.front_line (s : State) (m : Master) (l : OutLine) : (s.front m).line l = s.line l := by
  simp only [State.line, State.front_lines]
@[simp] theorem State.front_pair (s : State) (m : Master) (p : PairIx) : (s.front m).pair p = s.pair p := by
  simp only [State.pair, State.front_pairs]
@[simp] theorem State.front_right (s : State) (m k : Master) : (s.front m).right k = s.right k := by
  simp only [State.right, State.front_rights]
@[simp] theorem State.front_now (s : State) (m : Master) : (s.front m).now = s.now := by
  simp only [State.now, State.front_timebase]
@[simp] theorem State.front_attachment (s : State) (m k : Master) : (s.front m).attachment k = s.attachment k := by
  obtain ⟨p, h, hp⟩ := s.front_eq m
  rw [h, State.setPort_attachment]
  split
  · next e => rw [hp, e]
  · rfl

/-! ### A command's step -/

/-- A command whose block carries it out: what the block makes of the state it finds, with the response built at the port. -/
theorem State.request_carriesOut {s : State} {m : Master} {i : Instr} (body : State → State × Answer)
    (h : s.carriesOut m i = true) :
    s.request m i body = (body (s.front m)).1.answer m (commandCode i) (body (s.front m)).2 := by
  unfold State.carriesOut at h
  unfold State.request State.front State.perform
  cases hr : s.resetHeld
  · simp only [hr, Bool.not_false, Bool.true_and] at h
    simp only [Bool.false_eq_true, if_false]
    split at h
    · next j hj =>
      have : j = i := by simpa using h
      simp [hj, this]
    · next hne =>
      cases hx : (s.port m).execution with
      | none =>
        cases ha : admission i (s.attachment m) with
        | none => simp
        | some st => simp [ha] at h
      | some x =>
        cases x with
        | taken j => exact absurd hx (hne j)
        | built r =>
          cases ha : admission i (s.attachment m) with
          | none => simp
          | some st => simp [ha] at h
  · simp [hr] at h

/-- A command met by a port that is executing another one: a collision (R159). -/
theorem State.request_collides {s : State} {m : Master} {i j : Instr} (body : State → State × Answer)
    (hr : s.resetHeld = false) (hj : (s.port m).execution = some (.taken j)) (hne : j ≠ i) :
    s.request m i body = s.setPort m (s.port m).collide := by
  unfold State.request
  simp [hr, hj, hne]

/-- A command refused at the gate (R163). -/
theorem State.request_refused {s : State} {m : Master} {i : Instr} {st : Status} (body : State → State × Answer)
    (hr : s.resetHeld = false) (hx : ∀ j, (s.port m).execution ≠ some (.taken j))
    (ha : admission i (s.attachment m) = some st) :
    s.request m i body = (s.front m).answer m (commandCode i) (Answer.refusal st) := by
  unfold State.request State.front
  cases h : (s.port m).execution with
  | none => simp [hr, ha]
  | some x =>
    cases x with
    | taken j => exact absurd h (hx j)
    | built r => simp [hr, ha]

/-- While RESET is low no command does anything (R156). -/
theorem State.request_resetHeld {s : State} {m : Master} {i : Instr} (body : State → State × Answer)
    (hr : s.resetHeld = true) : s.request m i body = s := by
  simp [State.request, hr]

/-- Everything a command's step can be: nothing, a collision, a refusal at the gate, or its block's work. -/
theorem State.request_cases (s : State) (m : Master) (i : Instr) (body : State → State × Answer) :
    s.request m i body = s ∨ (∃ p, s.request m i body = s.setPort m p ∧ p.attachment = s.attachment m) ∨
      (∃ a, s.request m i body = (s.front m).answer m (commandCode i) a) ∨
        s.request m i body = (body (s.front m)).1.answer m (commandCode i) (body (s.front m)).2 := by
  cases hr : s.resetHeld
  · cases hx : (s.port m).execution with
    | none =>
      cases ha : admission i (s.attachment m) with
      | none => exact .inr (.inr (.inr (s.request_carriesOut body (by simp [State.carriesOut, hr, hx, ha]))))
      | some st => exact .inr (.inr (.inl ⟨_, State.request_refused body hr (by simp [hx]) ha⟩))
    | some x =>
      cases x with
      | taken j =>
        by_cases hj : j = i
        · exact .inr (.inr (.inr (s.request_carriesOut body (by simp [State.carriesOut, hr, hx, hj]))))
        · exact .inr (.inl ⟨_, State.request_collides body hr hx hj, rfl⟩)
      | built r =>
        cases ha : admission i (s.attachment m) with
        | none => exact .inr (.inr (.inr (s.request_carriesOut body (by simp [State.carriesOut, hr, hx, ha]))))
        | some st => exact .inr (.inr (.inl ⟨_, State.request_refused body hr (by simp [hx]) ha⟩))
  · exact .inl (State.request_resetHeld body hr)

@[simp] theorem State.event_released {s : State} (f : State → State) (h : s.resetHeld = false) : s.event f = f s := by
  simp [State.event, h]

@[simp] theorem State.event_resetHeld {s : State} (f : State → State) (h : s.resetHeld = true) : s.event f = s := by
  simp [State.event, h]

/-- Whatever holds of s and is kept by an event's effect holds after the event's step. -/
theorem State.event_keeps {s : State} {f : State → State} {P : State → Prop} (hs : P s) (hf : P (f s)) : P (s.event f) := by
  unfold State.event
  split
  · exact hs
  · exact hf

/-! ### Orders the spec leaves open -/

theorem insertAt_perm {α : Type} (x : α) (l : List α) (k : Nat) : (insertAt k x l).Perm (x :: l) := by
  induction l generalizing k with
  | nil => cases k <;> exact List.Perm.refl _
  | cons y l ih =>
    cases k with
    | zero => exact List.Perm.refl _
    | succ k => exact ((ih k).cons y).trans (List.Perm.swap x y l)

theorem arrange_perm {α : Type} (l : List α) (k : Nat) : (arrange k l).Perm l := by
  induction l generalizing k with
  | nil => cases k <;> exact List.Perm.refl _
  | cons x l ih => exact (insertAt_perm _ _ _).trans ((ih _).cons x)

/-- Hand-offs taken in any order are taken one after the other, each once, in some order. -/
theorem State.inAnyOrder_afterAll (s : State) (handOffs : List (State → State)) :
    s.afterAll handOffs (s.inAnyOrder handOffs) := by
  unfold State.inAnyOrder State.afterAll
  split
  · exact ⟨s.arbiter, [], List.Perm.refl _, rfl⟩
  · next f => exact ⟨s.arbiter, [f], List.Perm.refl _, rfl⟩
  · next f g rest => exact ⟨s.arbiter.tail, _, arrange_perm _ _, rfl⟩

@[simp] theorem State.inAnyOrder_nil (s : State) : s.inAnyOrder [] = s := rfl

@[simp] theorem State.inAnyOrder_single (s : State) (f : State → State) : s.inAnyOrder [f] = f s := rfl

theorem State.foldl_keeps {P : State → Prop} (order : List (State → State)) (h : ∀ f ∈ order, ∀ u, P u → P (f u))
    (s : State) (hs : P s) : P (order.foldl (fun u f => f u) s) := by
  induction order generalizing s with
  | nil => exact hs
  | cons f rest ih =>
    exact ih (fun g hg => h g (List.mem_cons_of_mem _ hg)) _ (h f List.mem_cons_self _ hs)

/-- Whatever every hand-off keeps, and the open choices do not bear on, holds after all of them. -/
theorem State.inAnyOrder_keeps {P : State → Prop} {s : State} {handOffs : List (State → State)}
    (ha : ∀ a, P { s with arbiter := a }) (h : ∀ f ∈ handOffs, ∀ u, P u → P (f u)) : P (s.inAnyOrder handOffs) := by
  obtain ⟨a, order, hp, ht⟩ := s.inAnyOrder_afterAll handOffs
  rw [ht]
  exact State.foldl_keeps order (fun f hf => h f (hp.mem_iff.mp hf)) _ (ha a)

/-! ### Sets of members -/

theorem single_getLsbD {w : Nat} (n i : Nat) : (single n : BitVec w).getLsbD i = (decide (i < w) && decide (i = n)) := by
  simp only [single, BitVec.getLsbD_shiftLeft, BitVec.getLsbD_one]
  by_cases h : i < w <;> by_cases hn : i < n <;> by_cases he : i = n <;> simp [h, hn, he] <;> omega

theorem without_getLsbD {w : Nat} (x : BitVec w) (n i : Nat) :
    (without x n).getLsbD i = (x.getLsbD i && decide (i ≠ n)) := by
  simp only [without, BitVec.getLsbD_and, BitVec.getLsbD_not, single_getLsbD]
  by_cases h : i < w
  · by_cases hn : i = n <;> simp [h, hn]
  · simp [BitVec.getLsbD_of_ge x i (by omega)]

theorem foldl_setOf {w : Nat} (f : Fin w → Bool) (l : List (Fin w)) (acc : BitVec w) (i : Nat) :
    (l.foldl (fun x j => if f j then x ||| single j.val else x) acc).getLsbD i =
      (acc.getLsbD i || l.any fun j => f j && decide (j.val = i)) := by
  induction l generalizing acc with
  | nil => simp
  | cons j l ih =>
    rw [List.foldl_cons, ih, List.any_cons]
    cases hj : f j
    · simp
    · simp only [if_true, BitVec.getLsbD_or, single_getLsbD, Bool.true_and]
      by_cases hi : i < w
      · by_cases he : i = j.val
        · simp [he]
        · simp [hi, he, Ne.symm he]
      · have : ¬ (j.val = i) := fun e => hi (e ▸ j.isLt)
        simp [hi, this]

theorem setOf_getLsbD {w : Nat} (f : Fin w → Bool) (i : Fin w) : (setOf f).getLsbD i.val = f i := by
  unfold setOf
  rw [foldl_setOf]
  simp only [BitVec.getLsbD_zero, Bool.false_or]
  cases h : f i
  · rw [List.any_eq_false]
    intro j _ hj
    simp only [Bool.and_eq_true, decide_eq_true_eq] at hj
    have : j = i := Fin.ext hj.2
    simp [this, h] at hj
  · rw [List.any_eq_true]
    exact ⟨i, List.mem_finRange i, by simp [h]⟩

end Sys2Proof.Machine
end

