-- ==== Sys2Proof/Laws/Frames.lean ====
section
/-! SUPPORT. The frames of the shared operations: one lemma per operation and part of the state it leaves as it was. -/
namespace Sys2Proof.Machine

/-- A part of the state that no step of a fold changes stands at its end. -/
theorem foldl_field {α β : Type} (F : State → α) (g : State → β → State) (l : List β) (h : ∀ u b, F (g u b) = F u)
    (s : State) : F (l.foldl g s) = F s := by
  induction l generalizing s with
  | nil => rfl
  | cons b l ih => rw [List.foldl_cons, ih, h]

/-- A part of the state that no hand-off changes, and that does not hold the open choices, stands after all of them. -/
theorem State.inAnyOrder_field {α : Type} (F : State → α) {s : State} {handOffs : List (State → State)}
    (ha : ∀ a, F { s with arbiter := a } = F s) (h : ∀ f ∈ handOffs, ∀ u, F (f u) = F u) :
    F (s.inAnyOrder handOffs) = F s :=
  State.inAnyOrder_keeps (P := fun u => F u = F s) ha fun f hf u hu => (h f hf u).trans hu

theorem mem_unless {α : Type} {p : Prop} [Decidable p] {a : α} {l : List α} :
    a ∈ (if p then [] else l) ↔ ¬p ∧ a ∈ l := by
  split_ifs with h <;> simp [h]

/-! ### The named updates and the vectors of the state -/

@[simp] theorem State.setTimebase_captures (s : State) (t : Timebase) : (s.setTimebase t).captures = s.captures := rfl

@[simp] theorem State.setTimebase_groups (s : State) (t : Timebase) : (s.setTimebase t).groups = s.groups := rfl

@[simp] theorem State.setTimebase_entries (s : State) (t : Timebase) : (s.setTimebase t).entries = s.entries := rfl

@[simp] theorem State.setTimebase_queues (s : State) (t : Timebase) : (s.setTimebase t).queues = s.queues := rfl

@[simp] theorem State.setTimebase_actions (s : State) (t : Timebase) : (s.setTimebase t).actions = s.actions := rfl

@[simp] theorem State.setTimebase_lines (s : State) (t : Timebase) : (s.setTimebase t).lines = s.lines := rfl

@[simp] theorem State.setTimebase_pairs (s : State) (t : Timebase) : (s.setTimebase t).pairs = s.pairs := rfl

@[simp] theorem State.setTimebase_rights (s : State) (t : Timebase) : (s.setTimebase t).rights = s.rights := rfl

@[simp] theorem State.setTimebase_ports (s : State) (t : Timebase) : (s.setTimebase t).ports = s.ports := rfl

@[simp] theorem State.setCapture_groups (s : State) (n : CapLine) (c : CaptureLine) : (s.setCapture n c).groups = s.groups := rfl

@[simp] theorem State.setCapture_entries (s : State) (n : CapLine) (c : CaptureLine) : (s.setCapture n c).entries = s.entries := rfl

@[simp] theorem State.setCapture_queues (s : State) (n : CapLine) (c : CaptureLine) : (s.setCapture n c).queues = s.queues := rfl

@[simp] theorem State.setCapture_actions (s : State) (n : CapLine) (c : CaptureLine) : (s.setCapture n c).actions = s.actions := rfl

@[simp] theorem State.setCapture_lines (s : State) (n : CapLine) (c : CaptureLine) : (s.setCapture n c).lines = s.lines := rfl

@[simp] theorem State.setCapture_pairs (s : State) (n : CapLine) (c : CaptureLine) : (s.setCapture n c).pairs = s.pairs := rfl

@[simp] theorem State.setCapture_rights (s : State) (n : CapLine) (c : CaptureLine) : (s.setCapture n c).rights = s.rights := rfl

@[simp] theorem State.setCapture_ports (s : State) (n : CapLine) (c : CaptureLine) : (s.setCapture n c).ports = s.ports := rfl

@[simp] theorem State.setGroup_captures (s : State) (g : GroupIx) (x : CapSet) : (s.setGroup g x).captures = s.captures := rfl

@[simp] theorem State.setGroup_entries (s : State) (g : GroupIx) (x : CapSet) : (s.setGroup g x).entries = s.entries := rfl

@[simp] theorem State.setGroup_queues (s : State) (g : GroupIx) (x : CapSet) : (s.setGroup g x).queues = s.queues := rfl

@[simp] theorem State.setGroup_actions (s : State) (g : GroupIx) (x : CapSet) : (s.setGroup g x).actions = s.actions := rfl

@[simp] theorem State.setGroup_lines (s : State) (g : GroupIx) (x : CapSet) : (s.setGroup g x).lines = s.lines := rfl

@[simp] theorem State.setGroup_pairs (s : State) (g : GroupIx) (x : CapSet) : (s.setGroup g x).pairs = s.pairs := rfl

@[simp] theorem State.setGroup_rights (s : State) (g : GroupIx) (x : CapSet) : (s.setGroup g x).rights = s.rights := rfl

@[simp] theorem State.setGroup_ports (s : State) (g : GroupIx) (x : CapSet) : (s.setGroup g x).ports = s.ports := rfl

@[simp] theorem State.setEntry_captures (s : State) (e : EntryIx) (x : Entry) : (s.setEntry e x).captures = s.captures := rfl

@[simp] theorem State.setEntry_groups (s : State) (e : EntryIx) (x : Entry) : (s.setEntry e x).groups = s.groups := rfl

@[simp] theorem State.setEntry_queues (s : State) (e : EntryIx) (x : Entry) : (s.setEntry e x).queues = s.queues := rfl

@[simp] theorem State.setEntry_actions (s : State) (e : EntryIx) (x : Entry) : (s.setEntry e x).actions = s.actions := rfl

@[simp] theorem State.setEntry_lines (s : State) (e : EntryIx) (x : Entry) : (s.setEntry e x).lines = s.lines := rfl

@[simp] theorem State.setEntry_pairs (s : State) (e : EntryIx) (x : Entry) : (s.setEntry e x).pairs = s.pairs := rfl

@[simp] theorem State.setEntry_rights (s : State) (e : EntryIx) (x : Entry) : (s.setEntry e x).rights = s.rights := rfl

@[simp] theorem State.setEntry_ports (s : State) (e : EntryIx) (x : Entry) : (s.setEntry e x).ports = s.ports := rfl

@[simp] theorem State.setQueue_captures (s : State) (m : Master) (q : NoticeQueue) : (s.setQueue m q).captures = s.captures := rfl

@[simp] theorem State.setQueue_groups (s : State) (m : Master) (q : NoticeQueue) : (s.setQueue m q).groups = s.groups := rfl

@[simp] theorem State.setQueue_entries (s : State) (m : Master) (q : NoticeQueue) : (s.setQueue m q).entries = s.entries := rfl

@[simp] theorem State.setQueue_actions (s : State) (m : Master) (q : NoticeQueue) : (s.setQueue m q).actions = s.actions := rfl

@[simp] theorem State.setQueue_lines (s : State) (m : Master) (q : NoticeQueue) : (s.setQueue m q).lines = s.lines := rfl

@[simp] theorem State.setQueue_pairs (s : State) (m : Master) (q : NoticeQueue) : (s.setQueue m q).pairs = s.pairs := rfl

@[simp] theorem State.setQueue_rights (s : State) (m : Master) (q : NoticeQueue) : (s.setQueue m q).rights = s.rights := rfl

@[simp] theorem State.setQueue_ports (s : State) (m : Master) (q : NoticeQueue) : (s.setQueue m q).ports = s.ports := rfl

@[simp] theorem State.setAction_captures (s : State) (n : Slot) (r : Option ActionRecord) : (s.setAction n r).captures = s.captures := rfl

@[simp] theorem State.setAction_groups (s : State) (n : Slot) (r : Option ActionRecord) : (s.setAction n r).groups = s.groups := rfl

@[simp] theorem State.setAction_entries (s : State) (n : Slot) (r : Option ActionRecord) : (s.setAction n r).entries = s.entries := rfl

@[simp] theorem State.setAction_queues (s : State) (n : Slot) (r : Option ActionRecord) : (s.setAction n r).queues = s.queues := rfl

@[simp] theorem State.setAction_lines (s : State) (n : Slot) (r : Option ActionRecord) : (s.setAction n r).lines = s.lines := rfl

@[simp] theorem State.setAction_pairs (s : State) (n : Slot) (r : Option ActionRecord) : (s.setAction n r).pairs = s.pairs := rfl

@[simp] theorem State.setAction_rights (s : State) (n : Slot) (r : Option ActionRecord) : (s.setAction n r).rights = s.rights := rfl

@[simp] theorem State.setAction_ports (s : State) (n : Slot) (r : Option ActionRecord) : (s.setAction n r).ports = s.ports := rfl

@[simp] theorem State.setLine_captures (s : State) (l : OutLine) (x : OutputLine) : (s.setLine l x).captures = s.captures := rfl

@[simp] theorem State.setLine_groups (s : State) (l : OutLine) (x : OutputLine) : (s.setLine l x).groups = s.groups := rfl

@[simp] theorem State.setLine_entries (s : State) (l : OutLine) (x : OutputLine) : (s.setLine l x).entries = s.entries := rfl

@[simp] theorem State.setLine_queues (s : State) (l : OutLine) (x : OutputLine) : (s.setLine l x).queues = s.queues := rfl

@[simp] theorem State.setLine_actions (s : State) (l : OutLine) (x : OutputLine) : (s.setLine l x).actions = s.actions := rfl

@[simp] theorem State.setLine_pairs (s : State) (l : OutLine) (x : OutputLine) : (s.setLine l x).pairs = s.pairs := rfl

@[simp] theorem State.setLine_rights (s : State) (l : OutLine) (x : OutputLine) : (s.setLine l x).rights = s.rights := rfl

@[simp] theorem State.setLine_ports (s : State) (l : OutLine) (x : OutputLine) : (s.setLine l x).ports = s.ports := rfl

@[simp] theorem State.setPair_captures (s : State) (p : PairIx) (x : Pair) : (s.setPair p x).captures = s.captures := rfl

@[simp] theorem State.setPair_groups (s : State) (p : PairIx) (x : Pair) : (s.setPair p x).groups = s.groups := rfl

@[simp] theorem State.setPair_entries (s : State) (p : PairIx) (x : Pair) : (s.setPair p x).entries = s.entries := rfl

@[simp] theorem State.setPair_queues (s : State) (p : PairIx) (x : Pair) : (s.setPair p x).queues = s.queues := rfl

@[simp] theorem State.setPair_actions (s : State) (p : PairIx) (x : Pair) : (s.setPair p x).actions = s.actions := rfl

@[simp] theorem State.setPair_lines (s : State) (p : PairIx) (x : Pair) : (s.setPair p x).lines = s.lines := rfl

@[simp] theorem State.setPair_rights (s : State) (p : PairIx) (x : Pair) : (s.setPair p x).rights = s.rights := rfl

@[simp] theorem State.setPair_ports (s : State) (p : PairIx) (x : Pair) : (s.setPair p x).ports = s.ports := rfl

@[simp] theorem State.setCutoff_captures (s : State) (c : Cutoff) : (s.setCutoff c).captures = s.captures := rfl

@[simp] theorem State.setCutoff_groups (s : State) (c : Cutoff) : (s.setCutoff c).groups = s.groups := rfl

@[simp] theorem State.setCutoff_entries (s : State) (c : Cutoff) : (s.setCutoff c).entries = s.entries := rfl

@[simp] theorem State.setCutoff_queues (s : State) (c : Cutoff) : (s.setCutoff c).queues = s.queues := rfl

@[simp] theorem State.setCutoff_actions (s : State) (c : Cutoff) : (s.setCutoff c).actions = s.actions := rfl

@[simp] theorem State.setCutoff_lines (s : State) (c : Cutoff) : (s.setCutoff c).lines = s.lines := rfl

@[simp] theorem State.setCutoff_pairs (s : State) (c : Cutoff) : (s.setCutoff c).pairs = s.pairs := rfl

@[simp] theorem State.setCutoff_rights (s : State) (c : Cutoff) : (s.setCutoff c).rights = s.rights := rfl

@[simp] theorem State.setCutoff_ports (s : State) (c : Cutoff) : (s.setCutoff c).ports = s.ports := rfl

@[simp] theorem State.setRight_captures (s : State) (m : Master) (r : Rights) : (s.setRight m r).captures = s.captures := rfl

@[simp] theorem State.setRight_groups (s : State) (m : Master) (r : Rights) : (s.setRight m r).groups = s.groups := rfl

@[simp] theorem State.setRight_entries (s : State) (m : Master) (r : Rights) : (s.setRight m r).entries = s.entries := rfl

@[simp] theorem State.setRight_queues (s : State) (m : Master) (r : Rights) : (s.setRight m r).queues = s.queues := rfl

@[simp] theorem State.setRight_actions (s : State) (m : Master) (r : Rights) : (s.setRight m r).actions = s.actions := rfl

@[simp] theorem State.setRight_lines (s : State) (m : Master) (r : Rights) : (s.setRight m r).lines = s.lines := rfl

@[simp] theorem State.setRight_pairs (s : State) (m : Master) (r : Rights) : (s.setRight m r).pairs = s.pairs := rfl

@[simp] theorem State.setRight_ports (s : State) (m : Master) (r : Rights) : (s.setRight m r).ports = s.ports := rfl

@[simp] theorem State.setPort_captures (s : State) (m : Master) (p : Port) : (s.setPort m p).captures = s.captures := rfl

@[simp] theorem State.setPort_groups (s : State) (m : Master) (p : Port) : (s.setPort m p).groups = s.groups := rfl

@[simp] theorem State.setPort_entries (s : State) (m : Master) (p : Port) : (s.setPort m p).entries = s.entries := rfl

@[simp] theorem State.setPort_queues (s : State) (m : Master) (p : Port) : (s.setPort m p).queues = s.queues := rfl

@[simp] theorem State.setPort_actions (s : State) (m : Master) (p : Port) : (s.setPort m p).actions = s.actions := rfl

@[simp] theorem State.setPort_lines (s : State) (m : Master) (p : Port) : (s.setPort m p).lines = s.lines := rfl

@[simp] theorem State.setPort_pairs (s : State) (m : Master) (p : Port) : (s.setPort m p).pairs = s.pairs := rfl

@[simp] theorem State.setPort_rights (s : State) (m : Master) (p : Port) : (s.setPort m p).rights = s.rights := rfl

@[simp] theorem State.setAttachment_captures (s : State) (m : Master) (a : Attachment) : (s.setAttachment m a).captures = s.captures := rfl

@[simp] theorem State.setAttachment_groups (s : State) (m : Master) (a : Attachment) : (s.setAttachment m a).groups = s.groups := rfl

@[simp] theorem State.setAttachment_entries (s : State) (m : Master) (a : Attachment) : (s.setAttachment m a).entries = s.entries := rfl

@[simp] theorem State.setAttachment_queues (s : State) (m : Master) (a : Attachment) : (s.setAttachment m a).queues = s.queues := rfl

@[simp] theorem State.setAttachment_actions (s : State) (m : Master) (a : Attachment) : (s.setAttachment m a).actions = s.actions := rfl

@[simp] theorem State.setAttachment_lines (s : State) (m : Master) (a : Attachment) : (s.setAttachment m a).lines = s.lines := rfl

@[simp] theorem State.setAttachment_pairs (s : State) (m : Master) (a : Attachment) : (s.setAttachment m a).pairs = s.pairs := rfl

@[simp] theorem State.setAttachment_rights (s : State) (m : Master) (a : Attachment) : (s.setAttachment m a).rights = s.rights := rfl

@[simp] theorem State.answer_captures (s : State) (m : Master) (code : Byte) (a : Answer) : (s.answer m code a).captures = s.captures := rfl

@[simp] theorem State.answer_groups (s : State) (m : Master) (code : Byte) (a : Answer) : (s.answer m code a).groups = s.groups := rfl

@[simp] theorem State.answer_entries (s : State) (m : Master) (code : Byte) (a : Answer) : (s.answer m code a).entries = s.entries := rfl

@[simp] theorem State.answer_queues (s : State) (m : Master) (code : Byte) (a : Answer) : (s.answer m code a).queues = s.queues := rfl

@[simp] theorem State.answer_actions (s : State) (m : Master) (code : Byte) (a : Answer) : (s.answer m code a).actions = s.actions := rfl

@[simp] theorem State.answer_lines (s : State) (m : Master) (code : Byte) (a : Answer) : (s.answer m code a).lines = s.lines := rfl

@[simp] theorem State.answer_pairs (s : State) (m : Master) (code : Byte) (a : Answer) : (s.answer m code a).pairs = s.pairs := rfl

@[simp] theorem State.answer_rights (s : State) (m : Master) (code : Byte) (a : Answer) : (s.answer m code a).rights = s.rights := rfl

@[simp] theorem State.withPending_captures (s : State) (l : List Instr) : (s.withPending l).captures = s.captures := rfl

@[simp] theorem State.withPending_groups (s : State) (l : List Instr) : (s.withPending l).groups = s.groups := rfl

@[simp] theorem State.withPending_entries (s : State) (l : List Instr) : (s.withPending l).entries = s.entries := rfl

@[simp] theorem State.withPending_queues (s : State) (l : List Instr) : (s.withPending l).queues = s.queues := rfl

@[simp] theorem State.withPending_actions (s : State) (l : List Instr) : (s.withPending l).actions = s.actions := rfl

@[simp] theorem State.withPending_lines (s : State) (l : List Instr) : (s.withPending l).lines = s.lines := rfl

@[simp] theorem State.withPending_pairs (s : State) (l : List Instr) : (s.withPending l).pairs = s.pairs := rfl

@[simp] theorem State.withPending_rights (s : State) (l : List Instr) : (s.withPending l).rights = s.rights := rfl

@[simp] theorem State.withPending_ports (s : State) (l : List Instr) : (s.withPending l).ports = s.ports := rfl

@[simp] theorem State.spendChoice_captures (s : State) : (s.spendChoice).captures = s.captures := rfl

@[simp] theorem State.spendChoice_groups (s : State) : (s.spendChoice).groups = s.groups := rfl

@[simp] theorem State.spendChoice_entries (s : State) : (s.spendChoice).entries = s.entries := rfl

@[simp] theorem State.spendChoice_queues (s : State) : (s.spendChoice).queues = s.queues := rfl

@[simp] theorem State.spendChoice_actions (s : State) : (s.spendChoice).actions = s.actions := rfl

@[simp] theorem State.spendChoice_lines (s : State) : (s.spendChoice).lines = s.lines := rfl

@[simp] theorem State.spendChoice_pairs (s : State) : (s.spendChoice).pairs = s.pairs := rfl

@[simp] theorem State.spendChoice_rights (s : State) : (s.spendChoice).rights = s.rights := rfl

@[simp] theorem State.spendChoice_ports (s : State) : (s.spendChoice).ports = s.ports := rfl

/-! ### hand -/

@[simp] theorem State.hand_resetHeld (s : State) (m : Master) (n : Notice) :
    (s.hand m n).resetHeld = s.resetHeld := by
  unfold State.hand; split <;> rfl

@[simp] theorem State.hand_capPins (s : State) (m : Master) (n : Notice) :
    (s.hand m n).capPins = s.capPins := by
  unfold State.hand; split <;> rfl

@[simp] theorem State.hand_syncPin (s : State) (m : Master) (n : Notice) :
    (s.hand m n).syncPin = s.syncPin := by
  unfold State.hand; split <;> rfl

@[simp] theorem State.hand_cutoffPin (s : State) (m : Master) (n : Notice) :
    (s.hand m n).cutoffPin = s.cutoffPin := by
  unfold State.hand; split <;> rfl

@[simp] theorem State.hand_timebase (s : State) (m : Master) (n : Notice) :
    (s.hand m n).timebase = s.timebase := by
  unfold State.hand; split <;> rfl

@[simp] theorem State.hand_captures (s : State) (m : Master) (n : Notice) :
    (s.hand m n).captures = s.captures := by
  unfold State.hand; split <;> rfl

@[simp] theorem State.hand_groups (s : State) (m : Master) (n : Notice) :
    (s.hand m n).groups = s.groups := by
  unfold State.hand; split <;> rfl

@[simp] theorem State.hand_entries (s : State) (m : Master) (n : Notice) :
    (s.hand m n).entries = s.entries := by
  unfold State.hand; split <;> rfl

@[simp] theorem State.hand_actions (s : State) (m : Master) (n : Notice) :
    (s.hand m n).actions = s.actions := by
  unfold State.hand; split <;> rfl

@[simp] theorem State.hand_lines (s : State) (m : Master) (n : Notice) :
    (s.hand m n).lines = s.lines := by
  unfold State.hand; split <;> rfl

@[simp] theorem State.hand_pairs (s : State) (m : Master) (n : Notice) :
    (s.hand m n).pairs = s.pairs := by
  unfold State.hand; split <;> rfl

@[simp] theorem State.hand_cutoff (s : State) (m : Master) (n : Notice) :
    (s.hand m n).cutoff = s.cutoff := by
  unfold State.hand; split <;> rfl

@[simp] theorem State.hand_supervisor (s : State) (m : Master) (n : Notice) :
    (s.hand m n).supervisor = s.supervisor := by
  unfold State.hand; split <;> rfl

@[simp] theorem State.hand_label (s : State) (m : Master) (n : Notice) :
    (s.hand m n).label = s.label := by
  unfold State.hand; split <;> rfl

@[simp] theorem State.hand_rights (s : State) (m : Master) (n : Notice) :
    (s.hand m n).rights = s.rights := by
  unfold State.hand; split <;> rfl

@[simp] theorem State.hand_ports (s : State) (m : Master) (n : Notice) :
    (s.hand m n).ports = s.ports := by
  unfold State.hand; split <;> rfl

@[simp] theorem State.hand_arbiter (s : State) (m : Master) (n : Notice) :
    (s.hand m n).arbiter = s.arbiter := by
  unfold State.hand; split <;> rfl

@[simp] theorem State.hand_pending (s : State) (m : Master) (n : Notice) :
    (s.hand m n).pending = s.pending := by
  unfold State.hand; split <;> rfl

@[simp] theorem State.hand_now (s : State) (m : Master) (n : Notice) :
    (s.hand m n).now = s.now := by simp only [State.now, State.hand_timebase]

@[simp] theorem State.hand_attachment (s : State) (m : Master) (n : Notice) (k : Master) :
    (s.hand m n).attachment k = s.attachment k := by
  simp only [State.attachment, State.port, State.hand_ports]

/-! ### handEach -/

@[simp] theorem State.handEach_resetHeld (s : State) (set : MasterSet) (n : Notice) :
    (s.handEach set n).resetHeld = s.resetHeld := by
  unfold State.handEach
  exact foldl_field State.resetHeld _ _ (fun u m => by split <;> simp) s

@[simp] theorem State.handEach_capPins (s : State) (set : MasterSet) (n : Notice) :
    (s.handEach set n).capPins = s.capPins := by
  unfold State.handEach
  exact foldl_field State.capPins _ _ (fun u m => by split <;> simp) s

@[simp] theorem State.handEach_syncPin (s : State) (set : MasterSet) (n : Notice) :
    (s.handEach set n).syncPin = s.syncPin := by
  unfold State.handEach
  exact foldl_field State.syncPin _ _ (fun u m => by split <;> simp) s

@[simp] theorem State.handEach_cutoffPin (s : State) (set : MasterSet) (n : Notice) :
    (s.handEach set n).cutoffPin = s.cutoffPin := by
  unfold State.handEach
  exact foldl_field State.cutoffPin _ _ (fun u m => by split <;> simp) s

@[simp] theorem State.handEach_timebase (s : State) (set : MasterSet) (n : Notice) :
    (s.handEach set n).timebase = s.timebase := by
  unfold State.handEach
  exact foldl_field State.timebase _ _ (fun u m => by split <;> simp) s

@[simp] theorem State.handEach_captures (s : State) (set : MasterSet) (n : Notice) :
    (s.handEach set n).captures = s.captures := by
  unfold State.handEach
  exact foldl_field State.captures _ _ (fun u m => by split <;> simp) s

@[simp] theorem State.handEach_groups (s : State) (set : MasterSet) (n : Notice) :
    (s.handEach set n).groups = s.groups := by
  unfold State.handEach
  exact foldl_field State.groups _ _ (fun u m => by split <;> simp) s

@[simp] theorem State.handEach_entries (s : State) (set : MasterSet) (n : Notice) :
    (s.handEach set n).entries = s.entries := by
  unfold State.handEach
  exact foldl_field State.entries _ _ (fun u m => by split <;> simp) s

@[simp] theorem State.handEach_actions (s : State) (set : MasterSet) (n : Notice) :
    (s.handEach set n).actions = s.actions := by
  unfold State.handEach
  exact foldl_field State.actions _ _ (fun u m => by split <;> simp) s

@[simp] theorem State.handEach_lines (s : State) (set : MasterSet) (n : Notice) :
    (s.handEach set n).lines = s.lines := by
  unfold State.handEach
  exact foldl_field State.lines _ _ (fun u m => by split <;> simp) s

@[simp] theorem State.handEach_pairs (s : State) (set : MasterSet) (n : Notice) :
    (s.handEach set n).pairs = s.pairs := by
  unfold State.handEach
  exact foldl_field State.pairs _ _ (fun u m => by split <;> simp) s

@[simp] theorem State.handEach_cutoff (s : State) (set : MasterSet) (n : Notice) :
    (s.handEach set n).cutoff = s.cutoff := by
  unfold State.handEach
  exact foldl_field State.cutoff _ _ (fun u m => by split <;> simp) s

@[simp] theorem State.handEach_supervisor (s : State) (set : MasterSet) (n : Notice) :
    (s.handEach set n).supervisor = s.supervisor := by
  unfold State.handEach
  exact foldl_field State.supervisor _ _ (fun u m => by split <;> simp) s

@[simp] theorem State.handEach_label (s : State) (set : MasterSet) (n : Notice) :
    (s.handEach set n).label = s.label := by
  unfold State.handEach
  exact foldl_field State.label _ _ (fun u m => by split <;> simp) s

@[simp] theorem State.handEach_rights (s : State) (set : MasterSet) (n : Notice) :
    (s.handEach set n).rights = s.rights := by
  unfold State.handEach
  exact foldl_field State.rights _ _ (fun u m => by split <;> simp) s

@[simp] theorem State.handEach_ports (s : State) (set : MasterSet) (n : Notice) :
    (s.handEach set n).ports = s.ports := by
  unfold State.handEach
  exact foldl_field State.ports _ _ (fun u m => by split <;> simp) s

@[simp] theorem State.handEach_arbiter (s : State) (set : MasterSet) (n : Notice) :
    (s.handEach set n).arbiter = s.arbiter := by
  unfold State.handEach
  exact foldl_field State.arbiter _ _ (fun u m => by split <;> simp) s

@[simp] theorem State.handEach_pending (s : State) (set : MasterSet) (n : Notice) :
    (s.handEach set n).pending = s.pending := by
  unfold State.handEach
  exact foldl_field State.pending _ _ (fun u m => by split <;> simp) s

@[simp] theorem State.handEach_now (s : State) (set : MasterSet) (n : Notice) :
    (s.handEach set n).now = s.now := by simp only [State.now, State.handEach_timebase]

@[simp] theorem State.handEach_attachment (s : State) (set : MasterSet) (n : Notice) (k : Master) :
    (s.handEach set n).attachment k = s.attachment k := by
  simp only [State.attachment, State.port, State.handEach_ports]

/-! ### edgeEvent -/

@[simp] theorem State.edgeEvent_resetHeld (s : State) (e : EntryIx) (t : Timestamp) (b : NoticeBody) :
    (s.edgeEvent e t b).resetHeld = s.resetHeld := by
  unfold State.edgeEvent; dsimp only; split_ifs <;> simp [State.setEntry]

@[simp] theorem State.edgeEvent_capPins (s : State) (e : EntryIx) (t : Timestamp) (b : NoticeBody) :
    (s.edgeEvent e t b).capPins = s.capPins := by
  unfold State.edgeEvent; dsimp only; split_ifs <;> simp [State.setEntry]

@[simp] theorem State.edgeEvent_syncPin (s : State) (e : EntryIx) (t : Timestamp) (b : NoticeBody) :
    (s.edgeEvent e t b).syncPin = s.syncPin := by
  unfold State.edgeEvent; dsimp only; split_ifs <;> simp [State.setEntry]

@[simp] theorem State.edgeEvent_cutoffPin (s : State) (e : EntryIx) (t : Timestamp) (b : NoticeBody) :
    (s.edgeEvent e t b).cutoffPin = s.cutoffPin := by
  unfold State.edgeEvent; dsimp only; split_ifs <;> simp [State.setEntry]

@[simp] theorem State.edgeEvent_timebase (s : State) (e : EntryIx) (t : Timestamp) (b : NoticeBody) :
    (s.edgeEvent e t b).timebase = s.timebase := by
  unfold State.edgeEvent; dsimp only; split_ifs <;> simp [State.setEntry]

@[simp] theorem State.edgeEvent_captures (s : State) (e : EntryIx) (t : Timestamp) (b : NoticeBody) :
    (s.edgeEvent e t b).captures = s.captures := by
  unfold State.edgeEvent; dsimp only; split_ifs <;> simp [State.setEntry]

@[simp] theorem State.edgeEvent_groups (s : State) (e : EntryIx) (t : Timestamp) (b : NoticeBody) :
    (s.edgeEvent e t b).groups = s.groups := by
  unfold State.edgeEvent; dsimp only; split_ifs <;> simp [State.setEntry]

@[simp] theorem State.edgeEvent_actions (s : State) (e : EntryIx) (t : Timestamp) (b : NoticeBody) :
    (s.edgeEvent e t b).actions = s.actions := by
  unfold State.edgeEvent; dsimp only; split_ifs <;> simp [State.setEntry]

@[simp] theorem State.edgeEvent_lines (s : State) (e : EntryIx) (t : Timestamp) (b : NoticeBody) :
    (s.edgeEvent e t b).lines = s.lines := by
  unfold State.edgeEvent; dsimp only; split_ifs <;> simp [State.setEntry]

@[simp] theorem State.edgeEvent_pairs (s : State) (e : EntryIx) (t : Timestamp) (b : NoticeBody) :
    (s.edgeEvent e t b).pairs = s.pairs := by
  unfold State.edgeEvent; dsimp only; split_ifs <;> simp [State.setEntry]

@[simp] theorem State.edgeEvent_cutoff (s : State) (e : EntryIx) (t : Timestamp) (b : NoticeBody) :
    (s.edgeEvent e t b).cutoff = s.cutoff := by
  unfold State.edgeEvent; dsimp only; split_ifs <;> simp [State.setEntry]

@[simp] theorem State.edgeEvent_supervisor (s : State) (e : EntryIx) (t : Timestamp) (b : NoticeBody) :
    (s.edgeEvent e t b).supervisor = s.supervisor := by
  unfold State.edgeEvent; dsimp only; split_ifs <;> simp [State.setEntry]

@[simp] theorem State.edgeEvent_label (s : State) (e : EntryIx) (t : Timestamp) (b : NoticeBody) :
    (s.edgeEvent e t b).label = s.label := by
  unfold State.edgeEvent; dsimp only; split_ifs <;> simp [State.setEntry]

@[simp] theorem State.edgeEvent_rights (s : State) (e : EntryIx) (t : Timestamp) (b : NoticeBody) :
    (s.edgeEvent e t b).rights = s.rights := by
  unfold State.edgeEvent; dsimp only; split_ifs <;> simp [State.setEntry]

@[simp] theorem State.edgeEvent_ports (s : State) (e : EntryIx) (t : Timestamp) (b : NoticeBody) :
    (s.edgeEvent e t b).ports = s.ports := by
  unfold State.edgeEvent; dsimp only; split_ifs <;> simp [State.setEntry]

@[simp] theorem State.edgeEvent_arbiter (s : State) (e : EntryIx) (t : Timestamp) (b : NoticeBody) :
    (s.edgeEvent e t b).arbiter = s.arbiter := by
  unfold State.edgeEvent; dsimp only; split_ifs <;> simp [State.setEntry]

@[simp] theorem State.edgeEvent_pending (s : State) (e : EntryIx) (t : Timestamp) (b : NoticeBody) :
    (s.edgeEvent e t b).pending = s.pending := by
  unfold State.edgeEvent; dsimp only; split_ifs <;> simp [State.setEntry]

@[simp] theorem State.edgeEvent_now (s : State) (e : EntryIx) (t : Timestamp) (b : NoticeBody) :
    (s.edgeEvent e t b).now = s.now := by simp only [State.now, State.edgeEvent_timebase]

@[simp] theorem State.edgeEvent_attachment (s : State) (e : EntryIx) (t : Timestamp) (b : NoticeBody) (k : Master) :
    (s.edgeEvent e t b).attachment k = s.attachment k := by
  simp only [State.attachment, State.port, State.edgeEvent_ports]

/-! ### attempt -/

@[simp] theorem State.attempt_resetHeld (s : State) (e : EntryIx) (t : Timestamp) :
    (s.attempt e t).resetHeld = s.resetHeld := by
  unfold State.attempt; dsimp only; split_ifs <;> simp [State.setEntry]

@[simp] theorem State.attempt_capPins (s : State) (e : EntryIx) (t : Timestamp) :
    (s.attempt e t).capPins = s.capPins := by
  unfold State.attempt; dsimp only; split_ifs <;> simp [State.setEntry]

@[simp] theorem State.attempt_syncPin (s : State) (e : EntryIx) (t : Timestamp) :
    (s.attempt e t).syncPin = s.syncPin := by
  unfold State.attempt; dsimp only; split_ifs <;> simp [State.setEntry]

@[simp] theorem State.attempt_cutoffPin (s : State) (e : EntryIx) (t : Timestamp) :
    (s.attempt e t).cutoffPin = s.cutoffPin := by
  unfold State.attempt; dsimp only; split_ifs <;> simp [State.setEntry]

@[simp] theorem State.attempt_timebase (s : State) (e : EntryIx) (t : Timestamp) :
    (s.attempt e t).timebase = s.timebase := by
  unfold State.attempt; dsimp only; split_ifs <;> simp [State.setEntry]

@[simp] theorem State.attempt_captures (s : State) (e : EntryIx) (t : Timestamp) :
    (s.attempt e t).captures = s.captures := by
  unfold State.attempt; dsimp only; split_ifs <;> simp [State.setEntry]

@[simp] theorem State.attempt_groups (s : State) (e : EntryIx) (t : Timestamp) :
    (s.attempt e t).groups = s.groups := by
  unfold State.attempt; dsimp only; split_ifs <;> simp [State.setEntry]

@[simp] theorem State.attempt_actions (s : State) (e : EntryIx) (t : Timestamp) :
    (s.attempt e t).actions = s.actions := by
  unfold State.attempt; dsimp only; split_ifs <;> simp [State.setEntry]

@[simp] theorem State.attempt_lines (s : State) (e : EntryIx) (t : Timestamp) :
    (s.attempt e t).lines = s.lines := by
  unfold State.attempt; dsimp only; split_ifs <;> simp [State.setEntry]

@[simp] theorem State.attempt_pairs (s : State) (e : EntryIx) (t : Timestamp) :
    (s.attempt e t).pairs = s.pairs := by
  unfold State.attempt; dsimp only; split_ifs <;> simp [State.setEntry]

@[simp] theorem State.attempt_cutoff (s : State) (e : EntryIx) (t : Timestamp) :
    (s.attempt e t).cutoff = s.cutoff := by
  unfold State.attempt; dsimp only; split_ifs <;> simp [State.setEntry]

@[simp] theorem State.attempt_supervisor (s : State) (e : EntryIx) (t : Timestamp) :
    (s.attempt e t).supervisor = s.supervisor := by
  unfold State.attempt; dsimp only; split_ifs <;> simp [State.setEntry]

@[simp] theorem State.attempt_label (s : State) (e : EntryIx) (t : Timestamp) :
    (s.attempt e t).label = s.label := by
  unfold State.attempt; dsimp only; split_ifs <;> simp [State.setEntry]

@[simp] theorem State.attempt_rights (s : State) (e : EntryIx) (t : Timestamp) :
    (s.attempt e t).rights = s.rights := by
  unfold State.attempt; dsimp only; split_ifs <;> simp [State.setEntry]

@[simp] theorem State.attempt_ports (s : State) (e : EntryIx) (t : Timestamp) :
    (s.attempt e t).ports = s.ports := by
  unfold State.attempt; dsimp only; split_ifs <;> simp [State.setEntry]

@[simp] theorem State.attempt_arbiter (s : State) (e : EntryIx) (t : Timestamp) :
    (s.attempt e t).arbiter = s.arbiter := by
  unfold State.attempt; dsimp only; split_ifs <;> simp [State.setEntry]

@[simp] theorem State.attempt_pending (s : State) (e : EntryIx) (t : Timestamp) :
    (s.attempt e t).pending = s.pending := by
  unfold State.attempt; dsimp only; split_ifs <;> simp [State.setEntry]

@[simp] theorem State.attempt_now (s : State) (e : EntryIx) (t : Timestamp) :
    (s.attempt e t).now = s.now := by simp only [State.now, State.attempt_timebase]

@[simp] theorem State.attempt_attachment (s : State) (e : EntryIx) (t : Timestamp) (k : Master) :
    (s.attempt e t).attachment k = s.attachment k := by
  simp only [State.attachment, State.port, State.attempt_ports]

/-! ### assertion -/

@[simp] theorem State.assertion_resetHeld (s : State) (e : EntryIx) (t : Timestamp) :
    (s.assertion e t).resetHeld = s.resetHeld := by
  unfold State.assertion; split_ifs <;> simp

@[simp] theorem State.assertion_capPins (s : State) (e : EntryIx) (t : Timestamp) :
    (s.assertion e t).capPins = s.capPins := by
  unfold State.assertion; split_ifs <;> simp

@[simp] theorem State.assertion_syncPin (s : State) (e : EntryIx) (t : Timestamp) :
    (s.assertion e t).syncPin = s.syncPin := by
  unfold State.assertion; split_ifs <;> simp

@[simp] theorem State.assertion_cutoffPin (s : State) (e : EntryIx) (t : Timestamp) :
    (s.assertion e t).cutoffPin = s.cutoffPin := by
  unfold State.assertion; split_ifs <;> simp

@[simp] theorem State.assertion_timebase (s : State) (e : EntryIx) (t : Timestamp) :
    (s.assertion e t).timebase = s.timebase := by
  unfold State.assertion; split_ifs <;> simp

@[simp] theorem State.assertion_captures (s : State) (e : EntryIx) (t : Timestamp) :
    (s.assertion e t).captures = s.captures := by
  unfold State.assertion; split_ifs <;> simp

@[simp] theorem State.assertion_groups (s : State) (e : EntryIx) (t : Timestamp) :
    (s.assertion e t).groups = s.groups := by
  unfold State.assertion; split_ifs <;> simp

@[simp] theorem State.assertion_actions (s : State) (e : EntryIx) (t : Timestamp) :
    (s.assertion e t).actions = s.actions := by
  unfold State.assertion; split_ifs <;> simp

@[simp] theorem State.assertion_lines (s : State) (e : EntryIx) (t : Timestamp) :
    (s.assertion e t).lines = s.lines := by
  unfold State.assertion; split_ifs <;> simp

@[simp] theorem State.assertion_pairs (s : State) (e : EntryIx) (t : Timestamp) :
    (s.assertion e t).pairs = s.pairs := by
  unfold State.assertion; split_ifs <;> simp

@[simp] theorem State.assertion_cutoff (s : State) (e : EntryIx) (t : Timestamp) :
    (s.assertion e t).cutoff = s.cutoff := by
  unfold State.assertion; split_ifs <;> simp

@[simp] theorem State.assertion_supervisor (s : State) (e : EntryIx) (t : Timestamp) :
    (s.assertion e t).supervisor = s.supervisor := by
  unfold State.assertion; split_ifs <;> simp

@[simp] theorem State.assertion_label (s : State) (e : EntryIx) (t : Timestamp) :
    (s.assertion e t).label = s.label := by
  unfold State.assertion; split_ifs <;> simp

@[simp] theorem State.assertion_rights (s : State) (e : EntryIx) (t : Timestamp) :
    (s.assertion e t).rights = s.rights := by
  unfold State.assertion; split_ifs <;> simp

@[simp] theorem State.assertion_ports (s : State) (e : EntryIx) (t : Timestamp) :
    (s.assertion e t).ports = s.ports := by
  unfold State.assertion; split_ifs <;> simp

@[simp] theorem State.assertion_arbiter (s : State) (e : EntryIx) (t : Timestamp) :
    (s.assertion e t).arbiter = s.arbiter := by
  unfold State.assertion; split_ifs <;> simp

@[simp] theorem State.assertion_pending (s : State) (e : EntryIx) (t : Timestamp) :
    (s.assertion e t).pending = s.pending := by
  unfold State.assertion; split_ifs <;> simp

@[simp] theorem State.assertion_now (s : State) (e : EntryIx) (t : Timestamp) :
    (s.assertion e t).now = s.now := by simp only [State.now, State.assertion_timebase]

@[simp] theorem State.assertion_attachment (s : State) (e : EntryIx) (t : Timestamp) (k : Master) :
    (s.assertion e t).attachment k = s.attachment k := by
  simp only [State.attachment, State.port, State.assertion_ports]

/-! ### deassertion -/

@[simp] theorem State.deassertion_resetHeld (s : State) (e : EntryIx) :
    (s.deassertion e).resetHeld = s.resetHeld := by
  unfold State.deassertion; split_ifs <;> rfl

@[simp] theorem State.deassertion_capPins (s : State) (e : EntryIx) :
    (s.deassertion e).capPins = s.capPins := by
  unfold State.deassertion; split_ifs <;> rfl

@[simp] theorem State.deassertion_syncPin (s : State) (e : EntryIx) :
    (s.deassertion e).syncPin = s.syncPin := by
  unfold State.deassertion; split_ifs <;> rfl

@[simp] theorem State.deassertion_cutoffPin (s : State) (e : EntryIx) :
    (s.deassertion e).cutoffPin = s.cutoffPin := by
  unfold State.deassertion; split_ifs <;> rfl

@[simp] theorem State.deassertion_timebase (s : State) (e : EntryIx) :
    (s.deassertion e).timebase = s.timebase := by
  unfold State.deassertion; split_ifs <;> rfl

@[simp] theorem State.deassertion_captures (s : State) (e : EntryIx) :
    (s.deassertion e).captures = s.captures := by
  unfold State.deassertion; split_ifs <;> rfl

@[simp] theorem State.deassertion_groups (s : State) (e : EntryIx) :
    (s.deassertion e).groups = s.groups := by
  unfold State.deassertion; split_ifs <;> rfl

@[simp] theorem State.deassertion_queues (s : State) (e : EntryIx) :
    (s.deassertion e).queues = s.queues := by
  unfold State.deassertion; split_ifs <;> rfl

@[simp] theorem State.deassertion_actions (s : State) (e : EntryIx) :
    (s.deassertion e).actions = s.actions := by
  unfold State.deassertion; split_ifs <;> rfl

@[simp] theorem State.deassertion_lines (s : State) (e : EntryIx) :
    (s.deassertion e).lines = s.lines := by
  unfold State.deassertion; split_ifs <;> rfl

@[simp] theorem State.deassertion_pairs (s : State) (e : EntryIx) :
    (s.deassertion e).pairs = s.pairs := by
  unfold State.deassertion; split_ifs <;> rfl

@[simp] theorem State.deassertion_cutoff (s : State) (e : EntryIx) :
    (s.deassertion e).cutoff = s.cutoff := by
  unfold State.deassertion; split_ifs <;> rfl

@[simp] theorem State.deassertion_supervisor (s : State) (e : EntryIx) :
    (s.deassertion e).supervisor = s.supervisor := by
  unfold State.deassertion; split_ifs <;> rfl

@[simp] theorem State.deassertion_label (s : State) (e : EntryIx) :
    (s.deassertion e).label = s.label := by
  unfold State.deassertion; split_ifs <;> rfl

@[simp] theorem State.deassertion_rights (s : State) (e : EntryIx) :
    (s.deassertion e).rights = s.rights := by
  unfold State.deassertion; split_ifs <;> rfl

@[simp] theorem State.deassertion_ports (s : State) (e : EntryIx) :
    (s.deassertion e).ports = s.ports := by
  unfold State.deassertion; split_ifs <;> rfl

@[simp] theorem State.deassertion_arbiter (s : State) (e : EntryIx) :
    (s.deassertion e).arbiter = s.arbiter := by
  unfold State.deassertion; split_ifs <;> rfl

@[simp] theorem State.deassertion_pending (s : State) (e : EntryIx) :
    (s.deassertion e).pending = s.pending := by
  unfold State.deassertion; split_ifs <;> rfl

@[simp] theorem State.deassertion_now (s : State) (e : EntryIx) :
    (s.deassertion e).now = s.now := by simp only [State.now, State.deassertion_timebase]

@[simp] theorem State.deassertion_attachment (s : State) (e : EntryIx) (k : Master) :
    (s.deassertion e).attachment k = s.attachment k := by
  simp only [State.attachment, State.port, State.deassertion_ports]

/-! ### resample -/

@[simp] theorem State.resample_resetHeld (s : State) (e : EntryIx) (t : Timestamp) :
    (s.resample e t).resetHeld = s.resetHeld := by
  unfold State.resample; dsimp only; split_ifs <;> simp [State.setEntry]

@[simp] theorem State.resample_capPins (s : State) (e : EntryIx) (t : Timestamp) :
    (s.resample e t).capPins = s.capPins := by
  unfold State.resample; dsimp only; split_ifs <;> simp [State.setEntry]

@[simp] theorem State.resample_syncPin (s : State) (e : EntryIx) (t : Timestamp) :
    (s.resample e t).syncPin = s.syncPin := by
  unfold State.resample; dsimp only; split_ifs <;> simp [State.setEntry]

@[simp] theorem State.resample_cutoffPin (s : State) (e : EntryIx) (t : Timestamp) :
    (s.resample e t).cutoffPin = s.cutoffPin := by
  unfold State.resample; dsimp only; split_ifs <;> simp [State.setEntry]

@[simp] theorem State.resample_timebase (s : State) (e : EntryIx) (t : Timestamp) :
    (s.resample e t).timebase = s.timebase := by
  unfold State.resample; dsimp only; split_ifs <;> simp [State.setEntry]

@[simp] theorem State.resample_captures (s : State) (e : EntryIx) (t : Timestamp) :
    (s.resample e t).captures = s.captures := by
  unfold State.resample; dsimp only; split_ifs <;> simp [State.setEntry]

@[simp] theorem State.resample_groups (s : State) (e : EntryIx) (t : Timestamp) :
    (s.resample e t).groups = s.groups := by
  unfold State.resample; dsimp only; split_ifs <;> simp [State.setEntry]

@[simp] theorem State.resample_actions (s : State) (e : EntryIx) (t : Timestamp) :
    (s.resample e t).actions = s.actions := by
  unfold State.resample; dsimp only; split_ifs <;> simp [State.setEntry]

@[simp] theorem State.resample_lines (s : State) (e : EntryIx) (t : Timestamp) :
    (s.resample e t).lines = s.lines := by
  unfold State.resample; dsimp only; split_ifs <;> simp [State.setEntry]

@[simp] theorem State.resample_pairs (s : State) (e : EntryIx) (t : Timestamp) :
    (s.resample e t).pairs = s.pairs := by
  unfold State.resample; dsimp only; split_ifs <;> simp [State.setEntry]

@[simp] theorem State.resample_cutoff (s : State) (e : EntryIx) (t : Timestamp) :
    (s.resample e t).cutoff = s.cutoff := by
  unfold State.resample; dsimp only; split_ifs <;> simp [State.setEntry]

@[simp] theorem State.resample_supervisor (s : State) (e : EntryIx) (t : Timestamp) :
    (s.resample e t).supervisor = s.supervisor := by
  unfold State.resample; dsimp only; split_ifs <;> simp [State.setEntry]

@[simp] theorem State.resample_label (s : State) (e : EntryIx) (t : Timestamp) :
    (s.resample e t).label = s.label := by
  unfold State.resample; dsimp only; split_ifs <;> simp [State.setEntry]

@[simp] theorem State.resample_rights (s : State) (e : EntryIx) (t : Timestamp) :
    (s.resample e t).rights = s.rights := by
  unfold State.resample; dsimp only; split_ifs <;> simp [State.setEntry]

@[simp] theorem State.resample_ports (s : State) (e : EntryIx) (t : Timestamp) :
    (s.resample e t).ports = s.ports := by
  unfold State.resample; dsimp only; split_ifs <;> simp [State.setEntry]

@[simp] theorem State.resample_arbiter (s : State) (e : EntryIx) (t : Timestamp) :
    (s.resample e t).arbiter = s.arbiter := by
  unfold State.resample; dsimp only; split_ifs <;> simp [State.setEntry]

@[simp] theorem State.resample_pending (s : State) (e : EntryIx) (t : Timestamp) :
    (s.resample e t).pending = s.pending := by
  unfold State.resample; dsimp only; split_ifs <;> simp [State.setEntry]

@[simp] theorem State.resample_now (s : State) (e : EntryIx) (t : Timestamp) :
    (s.resample e t).now = s.now := by simp only [State.now, State.resample_timebase]

@[simp] theorem State.resample_attachment (s : State) (e : EntryIx) (t : Timestamp) (k : Master) :
    (s.resample e t).attachment k = s.attachment k := by
  simp only [State.attachment, State.port, State.resample_ports]

/-! ### leaveAwaiting -/

@[simp] theorem State.leaveAwaiting_resetHeld (s : State) (m : Master) (t : Timestamp) (e : EntryIx) :
    (s.leaveAwaiting m t e).resetHeld = s.resetHeld := by
  unfold State.leaveAwaiting; dsimp only; split_ifs <;> simp [State.setEntry]

@[simp] theorem State.leaveAwaiting_capPins (s : State) (m : Master) (t : Timestamp) (e : EntryIx) :
    (s.leaveAwaiting m t e).capPins = s.capPins := by
  unfold State.leaveAwaiting; dsimp only; split_ifs <;> simp [State.setEntry]

@[simp] theorem State.leaveAwaiting_syncPin (s : State) (m : Master) (t : Timestamp) (e : EntryIx) :
    (s.leaveAwaiting m t e).syncPin = s.syncPin := by
  unfold State.leaveAwaiting; dsimp only; split_ifs <;> simp [State.setEntry]

@[simp] theorem State.leaveAwaiting_cutoffPin (s : State) (m : Master) (t : Timestamp) (e : EntryIx) :
    (s.leaveAwaiting m t e).cutoffPin = s.cutoffPin := by
  unfold State.leaveAwaiting; dsimp only; split_ifs <;> simp [State.setEntry]

@[simp] theorem State.leaveAwaiting_timebase (s : State) (m : Master) (t : Timestamp) (e : EntryIx) :
    (s.leaveAwaiting m t e).timebase = s.timebase := by
  unfold State.leaveAwaiting; dsimp only; split_ifs <;> simp [State.setEntry]

@[simp] theorem State.leaveAwaiting_captures (s : State) (m : Master) (t : Timestamp) (e : EntryIx) :
    (s.leaveAwaiting m t e).captures = s.captures := by
  unfold State.leaveAwaiting; dsimp only; split_ifs <;> simp [State.setEntry]

@[simp] theorem State.leaveAwaiting_groups (s : State) (m : Master) (t : Timestamp) (e : EntryIx) :
    (s.leaveAwaiting m t e).groups = s.groups := by
  unfold State.leaveAwaiting; dsimp only; split_ifs <;> simp [State.setEntry]

@[simp] theorem State.leaveAwaiting_actions (s : State) (m : Master) (t : Timestamp) (e : EntryIx) :
    (s.leaveAwaiting m t e).actions = s.actions := by
  unfold State.leaveAwaiting; dsimp only; split_ifs <;> simp [State.setEntry]

@[simp] theorem State.leaveAwaiting_lines (s : State) (m : Master) (t : Timestamp) (e : EntryIx) :
    (s.leaveAwaiting m t e).lines = s.lines := by
  unfold State.leaveAwaiting; dsimp only; split_ifs <;> simp [State.setEntry]

@[simp] theorem State.leaveAwaiting_pairs (s : State) (m : Master) (t : Timestamp) (e : EntryIx) :
    (s.leaveAwaiting m t e).pairs = s.pairs := by
  unfold State.leaveAwaiting; dsimp only; split_ifs <;> simp [State.setEntry]

@[simp] theorem State.leaveAwaiting_cutoff (s : State) (m : Master) (t : Timestamp) (e : EntryIx) :
    (s.leaveAwaiting m t e).cutoff = s.cutoff := by
  unfold State.leaveAwaiting; dsimp only; split_ifs <;> simp [State.setEntry]

@[simp] theorem State.leaveAwaiting_supervisor (s : State) (m : Master) (t : Timestamp) (e : EntryIx) :
    (s.leaveAwaiting m t e).supervisor = s.supervisor := by
  unfold State.leaveAwaiting; dsimp only; split_ifs <;> simp [State.setEntry]

@[simp] theorem State.leaveAwaiting_label (s : State) (m : Master) (t : Timestamp) (e : EntryIx) :
    (s.leaveAwaiting m t e).label = s.label := by
  unfold State.leaveAwaiting; dsimp only; split_ifs <;> simp [State.setEntry]

@[simp] theorem State.leaveAwaiting_rights (s : State) (m : Master) (t : Timestamp) (e : EntryIx) :
    (s.leaveAwaiting m t e).rights = s.rights := by
  unfold State.leaveAwaiting; dsimp only; split_ifs <;> simp [State.setEntry]

@[simp] theorem State.leaveAwaiting_ports (s : State) (m : Master) (t : Timestamp) (e : EntryIx) :
    (s.leaveAwaiting m t e).ports = s.ports := by
  unfold State.leaveAwaiting; dsimp only; split_ifs <;> simp [State.setEntry]

@[simp] theorem State.leaveAwaiting_arbiter (s : State) (m : Master) (t : Timestamp) (e : EntryIx) :
    (s.leaveAwaiting m t e).arbiter = s.arbiter := by
  unfold State.leaveAwaiting; dsimp only; split_ifs <;> simp [State.setEntry]

@[simp] theorem State.leaveAwaiting_pending (s : State) (m : Master) (t : Timestamp) (e : EntryIx) :
    (s.leaveAwaiting m t e).pending = s.pending := by
  unfold State.leaveAwaiting; dsimp only; split_ifs <;> simp [State.setEntry]

@[simp] theorem State.leaveAwaiting_now (s : State) (m : Master) (t : Timestamp) (e : EntryIx) :
    (s.leaveAwaiting m t e).now = s.now := by simp only [State.now, State.leaveAwaiting_timebase]

@[simp] theorem State.leaveAwaiting_attachment (s : State) (m : Master) (t : Timestamp) (e : EntryIx) (k : Master) :
    (s.leaveAwaiting m t e).attachment k = s.attachment k := by
  simp only [State.attachment, State.port, State.leaveAwaiting_ports]

/-! ### reportLapse -/

@[simp] theorem State.reportLapse_resetHeld (s : State) (e : EntryIx) (set : MasterSet) (t : Timestamp) :
    (s.reportLapse e set t).resetHeld = s.resetHeld := by
  unfold State.reportLapse; split <;> simp

@[simp] theorem State.reportLapse_capPins (s : State) (e : EntryIx) (set : MasterSet) (t : Timestamp) :
    (s.reportLapse e set t).capPins = s.capPins := by
  unfold State.reportLapse; split <;> simp

@[simp] theorem State.reportLapse_syncPin (s : State) (e : EntryIx) (set : MasterSet) (t : Timestamp) :
    (s.reportLapse e set t).syncPin = s.syncPin := by
  unfold State.reportLapse; split <;> simp

@[simp] theorem State.reportLapse_cutoffPin (s : State) (e : EntryIx) (set : MasterSet) (t : Timestamp) :
    (s.reportLapse e set t).cutoffPin = s.cutoffPin := by
  unfold State.reportLapse; split <;> simp

@[simp] theorem State.reportLapse_timebase (s : State) (e : EntryIx) (set : MasterSet) (t : Timestamp) :
    (s.reportLapse e set t).timebase = s.timebase := by
  unfold State.reportLapse; split <;> simp

@[simp] theorem State.reportLapse_captures (s : State) (e : EntryIx) (set : MasterSet) (t : Timestamp) :
    (s.reportLapse e set t).captures = s.captures := by
  unfold State.reportLapse; split <;> simp

@[simp] theorem State.reportLapse_groups (s : State) (e : EntryIx) (set : MasterSet) (t : Timestamp) :
    (s.reportLapse e set t).groups = s.groups := by
  unfold State.reportLapse; split <;> simp

@[simp] theorem State.reportLapse_entries (s : State) (e : EntryIx) (set : MasterSet) (t : Timestamp) :
    (s.reportLapse e set t).entries = s.entries := by
  unfold State.reportLapse; split <;> simp

@[simp] theorem State.reportLapse_actions (s : State) (e : EntryIx) (set : MasterSet) (t : Timestamp) :
    (s.reportLapse e set t).actions = s.actions := by
  unfold State.reportLapse; split <;> simp

@[simp] theorem State.reportLapse_lines (s : State) (e : EntryIx) (set : MasterSet) (t : Timestamp) :
    (s.reportLapse e set t).lines = s.lines := by
  unfold State.reportLapse; split <;> simp

@[simp] theorem State.reportLapse_pairs (s : State) (e : EntryIx) (set : MasterSet) (t : Timestamp) :
    (s.reportLapse e set t).pairs = s.pairs := by
  unfold State.reportLapse; split <;> simp

@[simp] theorem State.reportLapse_cutoff (s : State) (e : EntryIx) (set : MasterSet) (t : Timestamp) :
    (s.reportLapse e set t).cutoff = s.cutoff := by
  unfold State.reportLapse; split <;> simp

@[simp] theorem State.reportLapse_supervisor (s : State) (e : EntryIx) (set : MasterSet) (t : Timestamp) :
    (s.reportLapse e set t).supervisor = s.supervisor := by
  unfold State.reportLapse; split <;> simp

@[simp] theorem State.reportLapse_label (s : State) (e : EntryIx) (set : MasterSet) (t : Timestamp) :
    (s.reportLapse e set t).label = s.label := by
  unfold State.reportLapse; split <;> simp

@[simp] theorem State.reportLapse_rights (s : State) (e : EntryIx) (set : MasterSet) (t : Timestamp) :
    (s.reportLapse e set t).rights = s.rights := by
  unfold State.reportLapse; split <;> simp

@[simp] theorem State.reportLapse_ports (s : State) (e : EntryIx) (set : MasterSet) (t : Timestamp) :
    (s.reportLapse e set t).ports = s.ports := by
  unfold State.reportLapse; split <;> simp

@[simp] theorem State.reportLapse_arbiter (s : State) (e : EntryIx) (set : MasterSet) (t : Timestamp) :
    (s.reportLapse e set t).arbiter = s.arbiter := by
  unfold State.reportLapse; split <;> simp

@[simp] theorem State.reportLapse_pending (s : State) (e : EntryIx) (set : MasterSet) (t : Timestamp) :
    (s.reportLapse e set t).pending = s.pending := by
  unfold State.reportLapse; split <;> simp

@[simp] theorem State.reportLapse_now (s : State) (e : EntryIx) (set : MasterSet) (t : Timestamp) :
    (s.reportLapse e set t).now = s.now := by simp only [State.now, State.reportLapse_timebase]

@[simp] theorem State.reportLapse_attachment (s : State) (e : EntryIx) (set : MasterSet) (t : Timestamp) (k : Master) :
    (s.reportLapse e set t).attachment k = s.attachment k := by
  simp only [State.attachment, State.port, State.reportLapse_ports]

/-! ### expire -/

@[simp] theorem State.expire_resetHeld (s : State) (e : EntryIx) :
    (s.expire e).resetHeld = s.resetHeld := by
  unfold State.expire; simp

@[simp] theorem State.expire_capPins (s : State) (e : EntryIx) :
    (s.expire e).capPins = s.capPins := by
  unfold State.expire; simp

@[simp] theorem State.expire_syncPin (s : State) (e : EntryIx) :
    (s.expire e).syncPin = s.syncPin := by
  unfold State.expire; simp

@[simp] theorem State.expire_cutoffPin (s : State) (e : EntryIx) :
    (s.expire e).cutoffPin = s.cutoffPin := by
  unfold State.expire; simp

@[simp] theorem State.expire_timebase (s : State) (e : EntryIx) :
    (s.expire e).timebase = s.timebase := by
  unfold State.expire; simp

@[simp] theorem State.expire_captures (s : State) (e : EntryIx) :
    (s.expire e).captures = s.captures := by
  unfold State.expire; simp

@[simp] theorem State.expire_groups (s : State) (e : EntryIx) :
    (s.expire e).groups = s.groups := by
  unfold State.expire; simp

@[simp] theorem State.expire_actions (s : State) (e : EntryIx) :
    (s.expire e).actions = s.actions := by
  unfold State.expire; simp

@[simp] theorem State.expire_lines (s : State) (e : EntryIx) :
    (s.expire e).lines = s.lines := by
  unfold State.expire; simp

@[simp] theorem State.expire_pairs (s : State) (e : EntryIx) :
    (s.expire e).pairs = s.pairs := by
  unfold State.expire; simp

@[simp] theorem State.expire_cutoff (s : State) (e : EntryIx) :
    (s.expire e).cutoff = s.cutoff := by
  unfold State.expire; simp

@[simp] theorem State.expire_supervisor (s : State) (e : EntryIx) :
    (s.expire e).supervisor = s.supervisor := by
  unfold State.expire; simp

@[simp] theorem State.expire_label (s : State) (e : EntryIx) :
    (s.expire e).label = s.label := by
  unfold State.expire; simp

@[simp] theorem State.expire_rights (s : State) (e : EntryIx) :
    (s.expire e).rights = s.rights := by
  unfold State.expire; simp

@[simp] theorem State.expire_ports (s : State) (e : EntryIx) :
    (s.expire e).ports = s.ports := by
  unfold State.expire; simp

@[simp] theorem State.expire_arbiter (s : State) (e : EntryIx) :
    (s.expire e).arbiter = s.arbiter := by
  unfold State.expire; simp

@[simp] theorem State.expire_pending (s : State) (e : EntryIx) :
    (s.expire e).pending = s.pending := by
  unfold State.expire; simp

@[simp] theorem State.expire_now (s : State) (e : EntryIx) :
    (s.expire e).now = s.now := by simp only [State.now, State.expire_timebase]

@[simp] theorem State.expire_attachment (s : State) (e : EntryIx) (k : Master) :
    (s.expire e).attachment k = s.attachment k := by
  simp only [State.attachment, State.port, State.expire_ports]

/-! ### cutoffChange -/

@[simp] theorem State.cutoffChange_resetHeld (s : State) (st : CutState) (r : Option Trip) (t : Timestamp) :
    (s.cutoffChange st r t).resetHeld = s.resetHeld := by
  unfold State.cutoffChange; simp

@[simp] theorem State.cutoffChange_capPins (s : State) (st : CutState) (r : Option Trip) (t : Timestamp) :
    (s.cutoffChange st r t).capPins = s.capPins := by
  unfold State.cutoffChange; simp

@[simp] theorem State.cutoffChange_syncPin (s : State) (st : CutState) (r : Option Trip) (t : Timestamp) :
    (s.cutoffChange st r t).syncPin = s.syncPin := by
  unfold State.cutoffChange; simp

@[simp] theorem State.cutoffChange_cutoffPin (s : State) (st : CutState) (r : Option Trip) (t : Timestamp) :
    (s.cutoffChange st r t).cutoffPin = s.cutoffPin := by
  unfold State.cutoffChange; simp

@[simp] theorem State.cutoffChange_timebase (s : State) (st : CutState) (r : Option Trip) (t : Timestamp) :
    (s.cutoffChange st r t).timebase = s.timebase := by
  unfold State.cutoffChange; simp

@[simp] theorem State.cutoffChange_captures (s : State) (st : CutState) (r : Option Trip) (t : Timestamp) :
    (s.cutoffChange st r t).captures = s.captures := by
  unfold State.cutoffChange; simp

@[simp] theorem State.cutoffChange_groups (s : State) (st : CutState) (r : Option Trip) (t : Timestamp) :
    (s.cutoffChange st r t).groups = s.groups := by
  unfold State.cutoffChange; simp

@[simp] theorem State.cutoffChange_actions (s : State) (st : CutState) (r : Option Trip) (t : Timestamp) :
    (s.cutoffChange st r t).actions = s.actions := by
  unfold State.cutoffChange; simp

@[simp] theorem State.cutoffChange_lines (s : State) (st : CutState) (r : Option Trip) (t : Timestamp) :
    (s.cutoffChange st r t).lines = s.lines := by
  unfold State.cutoffChange; simp

@[simp] theorem State.cutoffChange_pairs (s : State) (st : CutState) (r : Option Trip) (t : Timestamp) :
    (s.cutoffChange st r t).pairs = s.pairs := by
  unfold State.cutoffChange; simp

@[simp] theorem State.cutoffChange_cutoff (s : State) (st : CutState) (r : Option Trip) (t : Timestamp) :
    (s.cutoffChange st r t).cutoff = s.cutoff := by
  unfold State.cutoffChange; simp

@[simp] theorem State.cutoffChange_supervisor (s : State) (st : CutState) (r : Option Trip) (t : Timestamp) :
    (s.cutoffChange st r t).supervisor = s.supervisor := by
  unfold State.cutoffChange; simp

@[simp] theorem State.cutoffChange_label (s : State) (st : CutState) (r : Option Trip) (t : Timestamp) :
    (s.cutoffChange st r t).label = s.label := by
  unfold State.cutoffChange; simp

@[simp] theorem State.cutoffChange_rights (s : State) (st : CutState) (r : Option Trip) (t : Timestamp) :
    (s.cutoffChange st r t).rights = s.rights := by
  unfold State.cutoffChange; simp

@[simp] theorem State.cutoffChange_ports (s : State) (st : CutState) (r : Option Trip) (t : Timestamp) :
    (s.cutoffChange st r t).ports = s.ports := by
  unfold State.cutoffChange; simp

@[simp] theorem State.cutoffChange_arbiter (s : State) (st : CutState) (r : Option Trip) (t : Timestamp) :
    (s.cutoffChange st r t).arbiter = s.arbiter := by
  unfold State.cutoffChange; simp

@[simp] theorem State.cutoffChange_pending (s : State) (st : CutState) (r : Option Trip) (t : Timestamp) :
    (s.cutoffChange st r t).pending = s.pending := by
  unfold State.cutoffChange; simp

@[simp] theorem State.cutoffChange_now (s : State) (st : CutState) (r : Option Trip) (t : Timestamp) :
    (s.cutoffChange st r t).now = s.now := by simp only [State.now, State.cutoffChange_timebase]

@[simp] theorem State.cutoffChange_attachment (s : State) (st : CutState) (r : Option Trip) (t : Timestamp) (k : Master) :
    (s.cutoffChange st r t).attachment k = s.attachment k := by
  simp only [State.attachment, State.port, State.cutoffChange_ports]

/-! ### attachChange -/

@[simp] theorem State.attachChange_resetHeld (s : State) (m : Master) (a : Attachment) (t : Timestamp) :
    (s.attachChange m a t).resetHeld = s.resetHeld := by
  unfold State.attachChange; simp

@[simp] theorem State.attachChange_capPins (s : State) (m : Master) (a : Attachment) (t : Timestamp) :
    (s.attachChange m a t).capPins = s.capPins := by
  unfold State.attachChange; simp

@[simp] theorem State.attachChange_syncPin (s : State) (m : Master) (a : Attachment) (t : Timestamp) :
    (s.attachChange m a t).syncPin = s.syncPin := by
  unfold State.attachChange; simp

@[simp] theorem State.attachChange_cutoffPin (s : State) (m : Master) (a : Attachment) (t : Timestamp) :
    (s.attachChange m a t).cutoffPin = s.cutoffPin := by
  unfold State.attachChange; simp

@[simp] theorem State.attachChange_timebase (s : State) (m : Master) (a : Attachment) (t : Timestamp) :
    (s.attachChange m a t).timebase = s.timebase := by
  unfold State.attachChange; simp

@[simp] theorem State.attachChange_captures (s : State) (m : Master) (a : Attachment) (t : Timestamp) :
    (s.attachChange m a t).captures = s.captures := by
  unfold State.attachChange; simp

@[simp] theorem State.attachChange_groups (s : State) (m : Master) (a : Attachment) (t : Timestamp) :
    (s.attachChange m a t).groups = s.groups := by
  unfold State.attachChange; simp

@[simp] theorem State.attachChange_actions (s : State) (m : Master) (a : Attachment) (t : Timestamp) :
    (s.attachChange m a t).actions = s.actions := by
  unfold State.attachChange; simp

@[simp] theorem State.attachChange_lines (s : State) (m : Master) (a : Attachment) (t : Timestamp) :
    (s.attachChange m a t).lines = s.lines := by
  unfold State.attachChange; simp

@[simp] theorem State.attachChange_pairs (s : State) (m : Master) (a : Attachment) (t : Timestamp) :
    (s.attachChange m a t).pairs = s.pairs := by
  unfold State.attachChange; simp

@[simp] theorem State.attachChange_cutoff (s : State) (m : Master) (a : Attachment) (t : Timestamp) :
    (s.attachChange m a t).cutoff = s.cutoff := by
  unfold State.attachChange; simp

@[simp] theorem State.attachChange_supervisor (s : State) (m : Master) (a : Attachment) (t : Timestamp) :
    (s.attachChange m a t).supervisor = s.supervisor := by
  unfold State.attachChange; simp

@[simp] theorem State.attachChange_label (s : State) (m : Master) (a : Attachment) (t : Timestamp) :
    (s.attachChange m a t).label = s.label := by
  unfold State.attachChange; simp

@[simp] theorem State.attachChange_rights (s : State) (m : Master) (a : Attachment) (t : Timestamp) :
    (s.attachChange m a t).rights = s.rights := by
  unfold State.attachChange; simp

@[simp] theorem State.attachChange_ports (s : State) (m : Master) (a : Attachment) (t : Timestamp) :
    (s.attachChange m a t).ports = s.ports := by
  unfold State.attachChange; simp

@[simp] theorem State.attachChange_arbiter (s : State) (m : Master) (a : Attachment) (t : Timestamp) :
    (s.attachChange m a t).arbiter = s.arbiter := by
  unfold State.attachChange; simp

@[simp] theorem State.attachChange_pending (s : State) (m : Master) (a : Attachment) (t : Timestamp) :
    (s.attachChange m a t).pending = s.pending := by
  unfold State.attachChange; simp

@[simp] theorem State.attachChange_now (s : State) (m : Master) (a : Attachment) (t : Timestamp) :
    (s.attachChange m a t).now = s.now := by simp only [State.now, State.attachChange_timebase]

@[simp] theorem State.attachChange_attachment (s : State) (m : Master) (a : Attachment) (t : Timestamp) (k : Master) :
    (s.attachChange m a t).attachment k = s.attachment k := by
  simp only [State.attachment, State.port, State.attachChange_ports]

/-! ### changeLines -/

@[simp] theorem State.changeLines_captures (s : State) (on : OutLine → Bool) (g : OutputLine → OutputLine) :
    (s.changeLines on g).captures = s.captures := rfl

@[simp] theorem State.changeLines_groups (s : State) (on : OutLine → Bool) (g : OutputLine → OutputLine) :
    (s.changeLines on g).groups = s.groups := rfl

@[simp] theorem State.changeLines_entries (s : State) (on : OutLine → Bool) (g : OutputLine → OutputLine) :
    (s.changeLines on g).entries = s.entries := rfl

@[simp] theorem State.changeLines_queues (s : State) (on : OutLine → Bool) (g : OutputLine → OutputLine) :
    (s.changeLines on g).queues = s.queues := rfl

@[simp] theorem State.changeLines_actions (s : State) (on : OutLine → Bool) (g : OutputLine → OutputLine) :
    (s.changeLines on g).actions = s.actions := rfl

@[simp] theorem State.changeLines_pairs (s : State) (on : OutLine → Bool) (g : OutputLine → OutputLine) :
    (s.changeLines on g).pairs = s.pairs := rfl

@[simp] theorem State.changeLines_rights (s : State) (on : OutLine → Bool) (g : OutputLine → OutputLine) :
    (s.changeLines on g).rights = s.rights := rfl

@[simp] theorem State.changeLines_ports (s : State) (on : OutLine → Bool) (g : OutputLine → OutputLine) :
    (s.changeLines on g).ports = s.ports := rfl

/-! ### clearPairs -/

@[simp] theorem State.clearPairs_captures (s : State) (on : OutLine → Bool) :
    (s.clearPairs on).captures = s.captures := rfl

@[simp] theorem State.clearPairs_groups (s : State) (on : OutLine → Bool) :
    (s.clearPairs on).groups = s.groups := rfl

@[simp] theorem State.clearPairs_entries (s : State) (on : OutLine → Bool) :
    (s.clearPairs on).entries = s.entries := rfl

@[simp] theorem State.clearPairs_queues (s : State) (on : OutLine → Bool) :
    (s.clearPairs on).queues = s.queues := rfl

@[simp] theorem State.clearPairs_actions (s : State) (on : OutLine → Bool) :
    (s.clearPairs on).actions = s.actions := rfl

@[simp] theorem State.clearPairs_lines (s : State) (on : OutLine → Bool) :
    (s.clearPairs on).lines = s.lines := rfl

@[simp] theorem State.clearPairs_rights (s : State) (on : OutLine → Bool) :
    (s.clearPairs on).rights = s.rights := rfl

@[simp] theorem State.clearPairs_ports (s : State) (on : OutLine → Bool) :
    (s.clearPairs on).ports = s.ports := rfl

/-! ### cutLines -/

@[simp] theorem State.cutLines_resetHeld (s : State) :
    (s.cutLines).resetHeld = s.resetHeld := rfl

@[simp] theorem State.cutLines_capPins (s : State) :
    (s.cutLines).capPins = s.capPins := rfl

@[simp] theorem State.cutLines_syncPin (s : State) :
    (s.cutLines).syncPin = s.syncPin := rfl

@[simp] theorem State.cutLines_cutoffPin (s : State) :
    (s.cutLines).cutoffPin = s.cutoffPin := rfl

@[simp] theorem State.cutLines_timebase (s : State) :
    (s.cutLines).timebase = s.timebase := rfl

@[simp] theorem State.cutLines_captures (s : State) :
    (s.cutLines).captures = s.captures := rfl

@[simp] theorem State.cutLines_groups (s : State) :
    (s.cutLines).groups = s.groups := rfl

@[simp] theorem State.cutLines_entries (s : State) :
    (s.cutLines).entries = s.entries := rfl

@[simp] theorem State.cutLines_queues (s : State) :
    (s.cutLines).queues = s.queues := rfl

@[simp] theorem State.cutLines_actions (s : State) :
    (s.cutLines).actions = s.actions := rfl

@[simp] theorem State.cutLines_cutoff (s : State) :
    (s.cutLines).cutoff = s.cutoff := rfl

@[simp] theorem State.cutLines_supervisor (s : State) :
    (s.cutLines).supervisor = s.supervisor := rfl

@[simp] theorem State.cutLines_label (s : State) :
    (s.cutLines).label = s.label := rfl

@[simp] theorem State.cutLines_rights (s : State) :
    (s.cutLines).rights = s.rights := rfl

@[simp] theorem State.cutLines_ports (s : State) :
    (s.cutLines).ports = s.ports := rfl

@[simp] theorem State.cutLines_arbiter (s : State) :
    (s.cutLines).arbiter = s.arbiter := rfl

@[simp] theorem State.cutLines_pending (s : State) :
    (s.cutLines).pending = s.pending := rfl

@[simp] theorem State.cutLines_now (s : State) :
    (s.cutLines).now = s.now := by simp only [State.now, State.cutLines_timebase]

@[simp] theorem State.cutLines_attachment (s : State) (k : Master) :
    (s.cutLines).attachment k = s.attachment k := by
  simp only [State.attachment, State.port, State.cutLines_ports]

/-! ### releaseLines -/

@[simp] theorem State.releaseLines_resetHeld (s : State) (set : LineSet) :
    (s.releaseLines set).resetHeld = s.resetHeld := rfl

@[simp] theorem State.releaseLines_capPins (s : State) (set : LineSet) :
    (s.releaseLines set).capPins = s.capPins := rfl

@[simp] theorem State.releaseLines_syncPin (s : State) (set : LineSet) :
    (s.releaseLines set).syncPin = s.syncPin := rfl

@[simp] theorem State.releaseLines_cutoffPin (s : State) (set : LineSet) :
    (s.releaseLines set).cutoffPin = s.cutoffPin := rfl

@[simp] theorem State.releaseLines_timebase (s : State) (set : LineSet) :
    (s.releaseLines set).timebase = s.timebase := rfl

@[simp] theorem State.releaseLines_captures (s : State) (set : LineSet) :
    (s.releaseLines set).captures = s.captures := rfl

@[simp] theorem State.releaseLines_groups (s : State) (set : LineSet) :
    (s.releaseLines set).groups = s.groups := rfl

@[simp] theorem State.releaseLines_entries (s : State) (set : LineSet) :
    (s.releaseLines set).entries = s.entries := rfl

@[simp] theorem State.releaseLines_queues (s : State) (set : LineSet) :
    (s.releaseLines set).queues = s.queues := rfl

@[simp] theorem State.releaseLines_actions (s : State) (set : LineSet) :
    (s.releaseLines set).actions = s.actions := rfl

@[simp] theorem State.releaseLines_cutoff (s : State) (set : LineSet) :
    (s.releaseLines set).cutoff = s.cutoff := rfl

@[simp] theorem State.releaseLines_supervisor (s : State) (set : LineSet) :
    (s.releaseLines set).supervisor = s.supervisor := rfl

@[simp] theorem State.releaseLines_label (s : State) (set : LineSet) :
    (s.releaseLines set).label = s.label := rfl

@[simp] theorem State.releaseLines_rights (s : State) (set : LineSet) :
    (s.releaseLines set).rights = s.rights := rfl

@[simp] theorem State.releaseLines_ports (s : State) (set : LineSet) :
    (s.releaseLines set).ports = s.ports := rfl

@[simp] theorem State.releaseLines_arbiter (s : State) (set : LineSet) :
    (s.releaseLines set).arbiter = s.arbiter := rfl

@[simp] theorem State.releaseLines_pending (s : State) (set : LineSet) :
    (s.releaseLines set).pending = s.pending := rfl

@[simp] theorem State.releaseLines_now (s : State) (set : LineSet) :
    (s.releaseLines set).now = s.now := by simp only [State.now, State.releaseLines_timebase]

@[simp] theorem State.releaseLines_attachment (s : State) (set : LineSet) (k : Master) :
    (s.releaseLines set).attachment k = s.attachment k := by
  simp only [State.attachment, State.port, State.releaseLines_ports]

/-! ### enableLine -/

@[simp] theorem State.enableLine_resetHeld (s : State) (l : OutLine) :
    (s.enableLine l).resetHeld = s.resetHeld := by
  unfold State.enableLine; dsimp only; split_ifs <;> rfl

@[simp] theorem State.enableLine_capPins (s : State) (l : OutLine) :
    (s.enableLine l).capPins = s.capPins := by
  unfold State.enableLine; dsimp only; split_ifs <;> rfl

@[simp] theorem State.enableLine_syncPin (s : State) (l : OutLine) :
    (s.enableLine l).syncPin = s.syncPin := by
  unfold State.enableLine; dsimp only; split_ifs <;> rfl

@[simp] theorem State.enableLine_cutoffPin (s : State) (l : OutLine) :
    (s.enableLine l).cutoffPin = s.cutoffPin := by
  unfold State.enableLine; dsimp only; split_ifs <;> rfl

@[simp] theorem State.enableLine_timebase (s : State) (l : OutLine) :
    (s.enableLine l).timebase = s.timebase := by
  unfold State.enableLine; dsimp only; split_ifs <;> rfl

@[simp] theorem State.enableLine_captures (s : State) (l : OutLine) :
    (s.enableLine l).captures = s.captures := by
  unfold State.enableLine; dsimp only; split_ifs <;> rfl

@[simp] theorem State.enableLine_groups (s : State) (l : OutLine) :
    (s.enableLine l).groups = s.groups := by
  unfold State.enableLine; dsimp only; split_ifs <;> rfl

@[simp] theorem State.enableLine_entries (s : State) (l : OutLine) :
    (s.enableLine l).entries = s.entries := by
  unfold State.enableLine; dsimp only; split_ifs <;> rfl

@[simp] theorem State.enableLine_queues (s : State) (l : OutLine) :
    (s.enableLine l).queues = s.queues := by
  unfold State.enableLine; dsimp only; split_ifs <;> rfl

@[simp] theorem State.enableLine_actions (s : State) (l : OutLine) :
    (s.enableLine l).actions = s.actions := by
  unfold State.enableLine; dsimp only; split_ifs <;> rfl

@[simp] theorem State.enableLine_cutoff (s : State) (l : OutLine) :
    (s.enableLine l).cutoff = s.cutoff := by
  unfold State.enableLine; dsimp only; split_ifs <;> rfl

@[simp] theorem State.enableLine_supervisor (s : State) (l : OutLine) :
    (s.enableLine l).supervisor = s.supervisor := by
  unfold State.enableLine; dsimp only; split_ifs <;> rfl

@[simp] theorem State.enableLine_label (s : State) (l : OutLine) :
    (s.enableLine l).label = s.label := by
  unfold State.enableLine; dsimp only; split_ifs <;> rfl

@[simp] theorem State.enableLine_rights (s : State) (l : OutLine) :
    (s.enableLine l).rights = s.rights := by
  unfold State.enableLine; dsimp only; split_ifs <;> rfl

@[simp] theorem State.enableLine_ports (s : State) (l : OutLine) :
    (s.enableLine l).ports = s.ports := by
  unfold State.enableLine; dsimp only; split_ifs <;> rfl

@[simp] theorem State.enableLine_arbiter (s : State) (l : OutLine) :
    (s.enableLine l).arbiter = s.arbiter := by
  unfold State.enableLine; dsimp only; split_ifs <;> rfl

@[simp] theorem State.enableLine_pending (s : State) (l : OutLine) :
    (s.enableLine l).pending = s.pending := by
  unfold State.enableLine; dsimp only; split_ifs <;> rfl

@[simp] theorem State.enableLine_now (s : State) (l : OutLine) :
    (s.enableLine l).now = s.now := by simp only [State.now, State.enableLine_timebase]

@[simp] theorem State.enableLine_attachment (s : State) (l : OutLine) (k : Master) :
    (s.enableLine l).attachment k = s.attachment k := by
  simp only [State.attachment, State.port, State.enableLine_ports]

/-! ### disableLine -/

@[simp] theorem State.disableLine_resetHeld (s : State) (l : OutLine) :
    (s.disableLine l).resetHeld = s.resetHeld := rfl

@[simp] theorem State.disableLine_capPins (s : State) (l : OutLine) :
    (s.disableLine l).capPins = s.capPins := rfl

@[simp] theorem State.disableLine_syncPin (s : State) (l : OutLine) :
    (s.disableLine l).syncPin = s.syncPin := rfl

@[simp] theorem State.disableLine_cutoffPin (s : State) (l : OutLine) :
    (s.disableLine l).cutoffPin = s.cutoffPin := rfl

@[simp] theorem State.disableLine_timebase (s : State) (l : OutLine) :
    (s.disableLine l).timebase = s.timebase := rfl

@[simp] theorem State.disableLine_captures (s : State) (l : OutLine) :
    (s.disableLine l).captures = s.captures := rfl

@[simp] theorem State.disableLine_groups (s : State) (l : OutLine) :
    (s.disableLine l).groups = s.groups := rfl

@[simp] theorem State.disableLine_entries (s : State) (l : OutLine) :
    (s.disableLine l).entries = s.entries := rfl

@[simp] theorem State.disableLine_queues (s : State) (l : OutLine) :
    (s.disableLine l).queues = s.queues := rfl

@[simp] theorem State.disableLine_actions (s : State) (l : OutLine) :
    (s.disableLine l).actions = s.actions := rfl

@[simp] theorem State.disableLine_cutoff (s : State) (l : OutLine) :
    (s.disableLine l).cutoff = s.cutoff := rfl

@[simp] theorem State.disableLine_supervisor (s : State) (l : OutLine) :
    (s.disableLine l).supervisor = s.supervisor := rfl

@[simp] theorem State.disableLine_label (s : State) (l : OutLine) :
    (s.disableLine l).label = s.label := rfl

@[simp] theorem State.disableLine_rights (s : State) (l : OutLine) :
    (s.disableLine l).rights = s.rights := rfl

@[simp] theorem State.disableLine_ports (s : State) (l : OutLine) :
    (s.disableLine l).ports = s.ports := rfl

@[simp] theorem State.disableLine_arbiter (s : State) (l : OutLine) :
    (s.disableLine l).arbiter = s.arbiter := rfl

@[simp] theorem State.disableLine_pending (s : State) (l : OutLine) :
    (s.disableLine l).pending = s.pending := rfl

@[simp] theorem State.disableLine_now (s : State) (l : OutLine) :
    (s.disableLine l).now = s.now := by simp only [State.now, State.disableLine_timebase]

@[simp] theorem State.disableLine_attachment (s : State) (l : OutLine) (k : Master) :
    (s.disableLine l).attachment k = s.attachment k := by
  simp only [State.attachment, State.port, State.disableLine_ports]

/-! ### handOver -/

@[simp] theorem State.handOver_resetHeld (s : State) (p : PairIx) (d : Side) :
    (s.handOver p d).resetHeld = s.resetHeld := rfl

@[simp] theorem State.handOver_capPins (s : State) (p : PairIx) (d : Side) :
    (s.handOver p d).capPins = s.capPins := rfl

@[simp] theorem State.handOver_syncPin (s : State) (p : PairIx) (d : Side) :
    (s.handOver p d).syncPin = s.syncPin := rfl

@[simp] theorem State.handOver_cutoffPin (s : State) (p : PairIx) (d : Side) :
    (s.handOver p d).cutoffPin = s.cutoffPin := rfl

@[simp] theorem State.handOver_timebase (s : State) (p : PairIx) (d : Side) :
    (s.handOver p d).timebase = s.timebase := rfl

@[simp] theorem State.handOver_captures (s : State) (p : PairIx) (d : Side) :
    (s.handOver p d).captures = s.captures := rfl

@[simp] theorem State.handOver_groups (s : State) (p : PairIx) (d : Side) :
    (s.handOver p d).groups = s.groups := rfl

@[simp] theorem State.handOver_entries (s : State) (p : PairIx) (d : Side) :
    (s.handOver p d).entries = s.entries := rfl

@[simp] theorem State.handOver_queues (s : State) (p : PairIx) (d : Side) :
    (s.handOver p d).queues = s.queues := rfl

@[simp] theorem State.handOver_actions (s : State) (p : PairIx) (d : Side) :
    (s.handOver p d).actions = s.actions := rfl

@[simp] theorem State.handOver_cutoff (s : State) (p : PairIx) (d : Side) :
    (s.handOver p d).cutoff = s.cutoff := rfl

@[simp] theorem State.handOver_supervisor (s : State) (p : PairIx) (d : Side) :
    (s.handOver p d).supervisor = s.supervisor := rfl

@[simp] theorem State.handOver_label (s : State) (p : PairIx) (d : Side) :
    (s.handOver p d).label = s.label := rfl

@[simp] theorem State.handOver_rights (s : State) (p : PairIx) (d : Side) :
    (s.handOver p d).rights = s.rights := rfl

@[simp] theorem State.handOver_ports (s : State) (p : PairIx) (d : Side) :
    (s.handOver p d).ports = s.ports := rfl

@[simp] theorem State.handOver_arbiter (s : State) (p : PairIx) (d : Side) :
    (s.handOver p d).arbiter = s.arbiter := rfl

@[simp] theorem State.handOver_pending (s : State) (p : PairIx) (d : Side) :
    (s.handOver p d).pending = s.pending := rfl

@[simp] theorem State.handOver_now (s : State) (p : PairIx) (d : Side) :
    (s.handOver p d).now = s.now := by simp only [State.now, State.handOver_timebase]

@[simp] theorem State.handOver_attachment (s : State) (p : PairIx) (d : Side) (k : Master) :
    (s.handOver p d).attachment k = s.attachment k := by
  simp only [State.attachment, State.port, State.handOver_ports]

/-! ### requestPair -/

@[simp] theorem State.requestPair_resetHeld (s : State) (p : PairIx) (w : Bool) :
    (s.requestPair p w).resetHeld = s.resetHeld := by
  unfold State.requestPair; split <;> rfl

@[simp] theorem State.requestPair_capPins (s : State) (p : PairIx) (w : Bool) :
    (s.requestPair p w).capPins = s.capPins := by
  unfold State.requestPair; split <;> rfl

@[simp] theorem State.requestPair_syncPin (s : State) (p : PairIx) (w : Bool) :
    (s.requestPair p w).syncPin = s.syncPin := by
  unfold State.requestPair; split <;> rfl

@[simp] theorem State.requestPair_cutoffPin (s : State) (p : PairIx) (w : Bool) :
    (s.requestPair p w).cutoffPin = s.cutoffPin := by
  unfold State.requestPair; split <;> rfl

@[simp] theorem State.requestPair_timebase (s : State) (p : PairIx) (w : Bool) :
    (s.requestPair p w).timebase = s.timebase := by
  unfold State.requestPair; split <;> rfl

@[simp] theorem State.requestPair_captures (s : State) (p : PairIx) (w : Bool) :
    (s.requestPair p w).captures = s.captures := by
  unfold State.requestPair; split <;> rfl

@[simp] theorem State.requestPair_groups (s : State) (p : PairIx) (w : Bool) :
    (s.requestPair p w).groups = s.groups := by
  unfold State.requestPair; split <;> rfl

@[simp] theorem State.requestPair_entries (s : State) (p : PairIx) (w : Bool) :
    (s.requestPair p w).entries = s.entries := by
  unfold State.requestPair; split <;> rfl

@[simp] theorem State.requestPair_queues (s : State) (p : PairIx) (w : Bool) :
    (s.requestPair p w).queues = s.queues := by
  unfold State.requestPair; split <;> rfl

@[simp] theorem State.requestPair_actions (s : State) (p : PairIx) (w : Bool) :
    (s.requestPair p w).actions = s.actions := by
  unfold State.requestPair; split <;> rfl

@[simp] theorem State.requestPair_cutoff (s : State) (p : PairIx) (w : Bool) :
    (s.requestPair p w).cutoff = s.cutoff := by
  unfold State.requestPair; split <;> rfl

@[simp] theorem State.requestPair_supervisor (s : State) (p : PairIx) (w : Bool) :
    (s.requestPair p w).supervisor = s.supervisor := by
  unfold State.requestPair; split <;> rfl

@[simp] theorem State.requestPair_label (s : State) (p : PairIx) (w : Bool) :
    (s.requestPair p w).label = s.label := by
  unfold State.requestPair; split <;> rfl

@[simp] theorem State.requestPair_rights (s : State) (p : PairIx) (w : Bool) :
    (s.requestPair p w).rights = s.rights := by
  unfold State.requestPair; split <;> rfl

@[simp] theorem State.requestPair_ports (s : State) (p : PairIx) (w : Bool) :
    (s.requestPair p w).ports = s.ports := by
  unfold State.requestPair; split <;> rfl

@[simp] theorem State.requestPair_arbiter (s : State) (p : PairIx) (w : Bool) :
    (s.requestPair p w).arbiter = s.arbiter := by
  unfold State.requestPair; split <;> rfl

@[simp] theorem State.requestPair_pending (s : State) (p : PairIx) (w : Bool) :
    (s.requestPair p w).pending = s.pending := by
  unfold State.requestPair; split <;> rfl

@[simp] theorem State.requestPair_now (s : State) (p : PairIx) (w : Bool) :
    (s.requestPair p w).now = s.now := by simp only [State.now, State.requestPair_timebase]

@[simp] theorem State.requestPair_attachment (s : State) (p : PairIx) (w : Bool) (k : Master) :
    (s.requestPair p w).attachment k = s.attachment k := by
  simp only [State.attachment, State.port, State.requestPair_ports]

/-! ### requestLevel -/

@[simp] theorem State.requestLevel_resetHeld (s : State) (l : OutLine) (q : LevelRequest) :
    (s.requestLevel l q).resetHeld = s.resetHeld := by
  unfold State.requestLevel; split_ifs
  · split <;> simp [State.setLine]
  · rfl

@[simp] theorem State.requestLevel_capPins (s : State) (l : OutLine) (q : LevelRequest) :
    (s.requestLevel l q).capPins = s.capPins := by
  unfold State.requestLevel; split_ifs
  · split <;> simp [State.setLine]
  · rfl

@[simp] theorem State.requestLevel_syncPin (s : State) (l : OutLine) (q : LevelRequest) :
    (s.requestLevel l q).syncPin = s.syncPin := by
  unfold State.requestLevel; split_ifs
  · split <;> simp [State.setLine]
  · rfl

@[simp] theorem State.requestLevel_cutoffPin (s : State) (l : OutLine) (q : LevelRequest) :
    (s.requestLevel l q).cutoffPin = s.cutoffPin := by
  unfold State.requestLevel; split_ifs
  · split <;> simp [State.setLine]
  · rfl

@[simp] theorem State.requestLevel_timebase (s : State) (l : OutLine) (q : LevelRequest) :
    (s.requestLevel l q).timebase = s.timebase := by
  unfold State.requestLevel; split_ifs
  · split <;> simp [State.setLine]
  · rfl

@[simp] theorem State.requestLevel_captures (s : State) (l : OutLine) (q : LevelRequest) :
    (s.requestLevel l q).captures = s.captures := by
  unfold State.requestLevel; split_ifs
  · split <;> simp [State.setLine]
  · rfl

@[simp] theorem State.requestLevel_groups (s : State) (l : OutLine) (q : LevelRequest) :
    (s.requestLevel l q).groups = s.groups := by
  unfold State.requestLevel; split_ifs
  · split <;> simp [State.setLine]
  · rfl

@[simp] theorem State.requestLevel_entries (s : State) (l : OutLine) (q : LevelRequest) :
    (s.requestLevel l q).entries = s.entries := by
  unfold State.requestLevel; split_ifs
  · split <;> simp [State.setLine]
  · rfl

@[simp] theorem State.requestLevel_queues (s : State) (l : OutLine) (q : LevelRequest) :
    (s.requestLevel l q).queues = s.queues := by
  unfold State.requestLevel; split_ifs
  · split <;> simp [State.setLine]
  · rfl

@[simp] theorem State.requestLevel_actions (s : State) (l : OutLine) (q : LevelRequest) :
    (s.requestLevel l q).actions = s.actions := by
  unfold State.requestLevel; split_ifs
  · split <;> simp [State.setLine]
  · rfl

@[simp] theorem State.requestLevel_cutoff (s : State) (l : OutLine) (q : LevelRequest) :
    (s.requestLevel l q).cutoff = s.cutoff := by
  unfold State.requestLevel; split_ifs
  · split <;> simp [State.setLine]
  · rfl

@[simp] theorem State.requestLevel_supervisor (s : State) (l : OutLine) (q : LevelRequest) :
    (s.requestLevel l q).supervisor = s.supervisor := by
  unfold State.requestLevel; split_ifs
  · split <;> simp [State.setLine]
  · rfl

@[simp] theorem State.requestLevel_label (s : State) (l : OutLine) (q : LevelRequest) :
    (s.requestLevel l q).label = s.label := by
  unfold State.requestLevel; split_ifs
  · split <;> simp [State.setLine]
  · rfl

@[simp] theorem State.requestLevel_rights (s : State) (l : OutLine) (q : LevelRequest) :
    (s.requestLevel l q).rights = s.rights := by
  unfold State.requestLevel; split_ifs
  · split <;> simp [State.setLine]
  · rfl

@[simp] theorem State.requestLevel_ports (s : State) (l : OutLine) (q : LevelRequest) :
    (s.requestLevel l q).ports = s.ports := by
  unfold State.requestLevel; split_ifs
  · split <;> simp [State.setLine]
  · rfl

@[simp] theorem State.requestLevel_arbiter (s : State) (l : OutLine) (q : LevelRequest) :
    (s.requestLevel l q).arbiter = s.arbiter := by
  unfold State.requestLevel; split_ifs
  · split <;> simp [State.setLine]
  · rfl

@[simp] theorem State.requestLevel_pending (s : State) (l : OutLine) (q : LevelRequest) :
    (s.requestLevel l q).pending = s.pending := by
  unfold State.requestLevel; split_ifs
  · split <;> simp [State.setLine]
  · rfl

@[simp] theorem State.requestLevel_now (s : State) (l : OutLine) (q : LevelRequest) :
    (s.requestLevel l q).now = s.now := by simp only [State.now, State.requestLevel_timebase]

@[simp] theorem State.requestLevel_attachment (s : State) (l : OutLine) (q : LevelRequest) (k : Master) :
    (s.requestLevel l q).attachment k = s.attachment k := by
  simp only [State.attachment, State.port, State.requestLevel_ports]

/-! ### requestTarget -/

@[simp] theorem State.requestTarget_resetHeld (s : State) (r : ActionRecord) (q : LevelRequest) :
    (s.requestTarget r q).resetHeld = s.resetHeld := by
  unfold State.requestTarget; split <;> simp

@[simp] theorem State.requestTarget_capPins (s : State) (r : ActionRecord) (q : LevelRequest) :
    (s.requestTarget r q).capPins = s.capPins := by
  unfold State.requestTarget; split <;> simp

@[simp] theorem State.requestTarget_syncPin (s : State) (r : ActionRecord) (q : LevelRequest) :
    (s.requestTarget r q).syncPin = s.syncPin := by
  unfold State.requestTarget; split <;> simp

@[simp] theorem State.requestTarget_cutoffPin (s : State) (r : ActionRecord) (q : LevelRequest) :
    (s.requestTarget r q).cutoffPin = s.cutoffPin := by
  unfold State.requestTarget; split <;> simp

@[simp] theorem State.requestTarget_timebase (s : State) (r : ActionRecord) (q : LevelRequest) :
    (s.requestTarget r q).timebase = s.timebase := by
  unfold State.requestTarget; split <;> simp

@[simp] theorem State.requestTarget_captures (s : State) (r : ActionRecord) (q : LevelRequest) :
    (s.requestTarget r q).captures = s.captures := by
  unfold State.requestTarget; split <;> simp

@[simp] theorem State.requestTarget_groups (s : State) (r : ActionRecord) (q : LevelRequest) :
    (s.requestTarget r q).groups = s.groups := by
  unfold State.requestTarget; split <;> simp

@[simp] theorem State.requestTarget_entries (s : State) (r : ActionRecord) (q : LevelRequest) :
    (s.requestTarget r q).entries = s.entries := by
  unfold State.requestTarget; split <;> simp

@[simp] theorem State.requestTarget_queues (s : State) (r : ActionRecord) (q : LevelRequest) :
    (s.requestTarget r q).queues = s.queues := by
  unfold State.requestTarget; split <;> simp

@[simp] theorem State.requestTarget_actions (s : State) (r : ActionRecord) (q : LevelRequest) :
    (s.requestTarget r q).actions = s.actions := by
  unfold State.requestTarget; split <;> simp

@[simp] theorem State.requestTarget_cutoff (s : State) (r : ActionRecord) (q : LevelRequest) :
    (s.requestTarget r q).cutoff = s.cutoff := by
  unfold State.requestTarget; split <;> simp

@[simp] theorem State.requestTarget_supervisor (s : State) (r : ActionRecord) (q : LevelRequest) :
    (s.requestTarget r q).supervisor = s.supervisor := by
  unfold State.requestTarget; split <;> simp

@[simp] theorem State.requestTarget_label (s : State) (r : ActionRecord) (q : LevelRequest) :
    (s.requestTarget r q).label = s.label := by
  unfold State.requestTarget; split <;> simp

@[simp] theorem State.requestTarget_rights (s : State) (r : ActionRecord) (q : LevelRequest) :
    (s.requestTarget r q).rights = s.rights := by
  unfold State.requestTarget; split <;> simp

@[simp] theorem State.requestTarget_ports (s : State) (r : ActionRecord) (q : LevelRequest) :
    (s.requestTarget r q).ports = s.ports := by
  unfold State.requestTarget; split <;> simp

@[simp] theorem State.requestTarget_arbiter (s : State) (r : ActionRecord) (q : LevelRequest) :
    (s.requestTarget r q).arbiter = s.arbiter := by
  unfold State.requestTarget; split <;> simp

@[simp] theorem State.requestTarget_pending (s : State) (r : ActionRecord) (q : LevelRequest) :
    (s.requestTarget r q).pending = s.pending := by
  unfold State.requestTarget; split <;> simp

@[simp] theorem State.requestTarget_now (s : State) (r : ActionRecord) (q : LevelRequest) :
    (s.requestTarget r q).now = s.now := by simp only [State.now, State.requestTarget_timebase]

@[simp] theorem State.requestTarget_attachment (s : State) (r : ActionRecord) (q : LevelRequest) (k : Master) :
    (s.requestTarget r q).attachment k = s.attachment k := by
  simp only [State.attachment, State.port, State.requestTarget_ports]

/-! ### openTarget -/

@[simp] theorem State.openTarget_resetHeld (s : State) (r : ActionRecord) :
    (s.openTarget r).resetHeld = s.resetHeld := by
  unfold State.openTarget; split <;> rfl

@[simp] theorem State.openTarget_capPins (s : State) (r : ActionRecord) :
    (s.openTarget r).capPins = s.capPins := by
  unfold State.openTarget; split <;> rfl

@[simp] theorem State.openTarget_syncPin (s : State) (r : ActionRecord) :
    (s.openTarget r).syncPin = s.syncPin := by
  unfold State.openTarget; split <;> rfl

@[simp] theorem State.openTarget_cutoffPin (s : State) (r : ActionRecord) :
    (s.openTarget r).cutoffPin = s.cutoffPin := by
  unfold State.openTarget; split <;> rfl

@[simp] theorem State.openTarget_timebase (s : State) (r : ActionRecord) :
    (s.openTarget r).timebase = s.timebase := by
  unfold State.openTarget; split <;> rfl

@[simp] theorem State.openTarget_groups (s : State) (r : ActionRecord) :
    (s.openTarget r).groups = s.groups := by
  unfold State.openTarget; split <;> rfl

@[simp] theorem State.openTarget_entries (s : State) (r : ActionRecord) :
    (s.openTarget r).entries = s.entries := by
  unfold State.openTarget; split <;> rfl

@[simp] theorem State.openTarget_queues (s : State) (r : ActionRecord) :
    (s.openTarget r).queues = s.queues := by
  unfold State.openTarget; split <;> rfl

@[simp] theorem State.openTarget_actions (s : State) (r : ActionRecord) :
    (s.openTarget r).actions = s.actions := by
  unfold State.openTarget; split <;> rfl

@[simp] theorem State.openTarget_lines (s : State) (r : ActionRecord) :
    (s.openTarget r).lines = s.lines := by
  unfold State.openTarget; split <;> rfl

@[simp] theorem State.openTarget_pairs (s : State) (r : ActionRecord) :
    (s.openTarget r).pairs = s.pairs := by
  unfold State.openTarget; split <;> rfl

@[simp] theorem State.openTarget_cutoff (s : State) (r : ActionRecord) :
    (s.openTarget r).cutoff = s.cutoff := by
  unfold State.openTarget; split <;> rfl

@[simp] theorem State.openTarget_supervisor (s : State) (r : ActionRecord) :
    (s.openTarget r).supervisor = s.supervisor := by
  unfold State.openTarget; split <;> rfl

@[simp] theorem State.openTarget_label (s : State) (r : ActionRecord) :
    (s.openTarget r).label = s.label := by
  unfold State.openTarget; split <;> rfl

@[simp] theorem State.openTarget_rights (s : State) (r : ActionRecord) :
    (s.openTarget r).rights = s.rights := by
  unfold State.openTarget; split <;> rfl

@[simp] theorem State.openTarget_ports (s : State) (r : ActionRecord) :
    (s.openTarget r).ports = s.ports := by
  unfold State.openTarget; split <;> rfl

@[simp] theorem State.openTarget_arbiter (s : State) (r : ActionRecord) :
    (s.openTarget r).arbiter = s.arbiter := by
  unfold State.openTarget; split <;> rfl

@[simp] theorem State.openTarget_pending (s : State) (r : ActionRecord) :
    (s.openTarget r).pending = s.pending := by
  unfold State.openTarget; split <;> rfl

@[simp] theorem State.openTarget_now (s : State) (r : ActionRecord) :
    (s.openTarget r).now = s.now := by simp only [State.now, State.openTarget_timebase]

@[simp] theorem State.openTarget_attachment (s : State) (r : ActionRecord) (k : Master) :
    (s.openTarget r).attachment k = s.attachment k := by
  simp only [State.attachment, State.port, State.openTarget_ports]

/-! ### expireDeadTime -/

@[simp] theorem State.expireDeadTime_resetHeld (s : State) (p : PairIx) :
    (s.expireDeadTime p).resetHeld = s.resetHeld := by
  unfold State.expireDeadTime; split_ifs <;> rfl

@[simp] theorem State.expireDeadTime_capPins (s : State) (p : PairIx) :
    (s.expireDeadTime p).capPins = s.capPins := by
  unfold State.expireDeadTime; split_ifs <;> rfl

@[simp] theorem State.expireDeadTime_syncPin (s : State) (p : PairIx) :
    (s.expireDeadTime p).syncPin = s.syncPin := by
  unfold State.expireDeadTime; split_ifs <;> rfl

@[simp] theorem State.expireDeadTime_cutoffPin (s : State) (p : PairIx) :
    (s.expireDeadTime p).cutoffPin = s.cutoffPin := by
  unfold State.expireDeadTime; split_ifs <;> rfl

@[simp] theorem State.expireDeadTime_timebase (s : State) (p : PairIx) :
    (s.expireDeadTime p).timebase = s.timebase := by
  unfold State.expireDeadTime; split_ifs <;> rfl

@[simp] theorem State.expireDeadTime_captures (s : State) (p : PairIx) :
    (s.expireDeadTime p).captures = s.captures := by
  unfold State.expireDeadTime; split_ifs <;> rfl

@[simp] theorem State.expireDeadTime_groups (s : State) (p : PairIx) :
    (s.expireDeadTime p).groups = s.groups := by
  unfold State.expireDeadTime; split_ifs <;> rfl

@[simp] theorem State.expireDeadTime_entries (s : State) (p : PairIx) :
    (s.expireDeadTime p).entries = s.entries := by
  unfold State.expireDeadTime; split_ifs <;> rfl

@[simp] theorem State.expireDeadTime_queues (s : State) (p : PairIx) :
    (s.expireDeadTime p).queues = s.queues := by
  unfold State.expireDeadTime; split_ifs <;> rfl

@[simp] theorem State.expireDeadTime_actions (s : State) (p : PairIx) :
    (s.expireDeadTime p).actions = s.actions := by
  unfold State.expireDeadTime; split_ifs <;> rfl

@[simp] theorem State.expireDeadTime_lines (s : State) (p : PairIx) :
    (s.expireDeadTime p).lines = s.lines := by
  unfold State.expireDeadTime; split_ifs <;> rfl

@[simp] theorem State.expireDeadTime_cutoff (s : State) (p : PairIx) :
    (s.expireDeadTime p).cutoff = s.cutoff := by
  unfold State.expireDeadTime; split_ifs <;> rfl

@[simp] theorem State.expireDeadTime_supervisor (s : State) (p : PairIx) :
    (s.expireDeadTime p).supervisor = s.supervisor := by
  unfold State.expireDeadTime; split_ifs <;> rfl

@[simp] theorem State.expireDeadTime_label (s : State) (p : PairIx) :
    (s.expireDeadTime p).label = s.label := by
  unfold State.expireDeadTime; split_ifs <;> rfl

@[simp] theorem State.expireDeadTime_rights (s : State) (p : PairIx) :
    (s.expireDeadTime p).rights = s.rights := by
  unfold State.expireDeadTime; split_ifs <;> rfl

@[simp] theorem State.expireDeadTime_ports (s : State) (p : PairIx) :
    (s.expireDeadTime p).ports = s.ports := by
  unfold State.expireDeadTime; split_ifs <;> rfl

@[simp] theorem State.expireDeadTime_arbiter (s : State) (p : PairIx) :
    (s.expireDeadTime p).arbiter = s.arbiter := by
  unfold State.expireDeadTime; split_ifs <;> rfl

@[simp] theorem State.expireDeadTime_pending (s : State) (p : PairIx) :
    (s.expireDeadTime p).pending = s.pending := by
  unfold State.expireDeadTime; split_ifs <;> rfl

@[simp] theorem State.expireDeadTime_now (s : State) (p : PairIx) :
    (s.expireDeadTime p).now = s.now := by simp only [State.now, State.expireDeadTime_timebase]

@[simp] theorem State.expireDeadTime_attachment (s : State) (p : PairIx) (k : Master) :
    (s.expireDeadTime p).attachment k = s.attachment k := by
  simp only [State.attachment, State.port, State.expireDeadTime_ports]

/-! ### complete -/

@[simp] theorem State.complete_resetHeld (s : State) (n : Slot) (r : ActionRecord) (t : Timestamp) :
    (s.complete n r t).resetHeld = s.resetHeld := by
  unfold State.complete; dsimp only; split_ifs <;> simp [State.setAction]

@[simp] theorem State.complete_capPins (s : State) (n : Slot) (r : ActionRecord) (t : Timestamp) :
    (s.complete n r t).capPins = s.capPins := by
  unfold State.complete; dsimp only; split_ifs <;> simp [State.setAction]

@[simp] theorem State.complete_syncPin (s : State) (n : Slot) (r : ActionRecord) (t : Timestamp) :
    (s.complete n r t).syncPin = s.syncPin := by
  unfold State.complete; dsimp only; split_ifs <;> simp [State.setAction]

@[simp] theorem State.complete_cutoffPin (s : State) (n : Slot) (r : ActionRecord) (t : Timestamp) :
    (s.complete n r t).cutoffPin = s.cutoffPin := by
  unfold State.complete; dsimp only; split_ifs <;> simp [State.setAction]

@[simp] theorem State.complete_timebase (s : State) (n : Slot) (r : ActionRecord) (t : Timestamp) :
    (s.complete n r t).timebase = s.timebase := by
  unfold State.complete; dsimp only; split_ifs <;> simp [State.setAction]

@[simp] theorem State.complete_captures (s : State) (n : Slot) (r : ActionRecord) (t : Timestamp) :
    (s.complete n r t).captures = s.captures := by
  unfold State.complete; dsimp only; split_ifs <;> simp [State.setAction]

@[simp] theorem State.complete_groups (s : State) (n : Slot) (r : ActionRecord) (t : Timestamp) :
    (s.complete n r t).groups = s.groups := by
  unfold State.complete; dsimp only; split_ifs <;> simp [State.setAction]

@[simp] theorem State.complete_entries (s : State) (n : Slot) (r : ActionRecord) (t : Timestamp) :
    (s.complete n r t).entries = s.entries := by
  unfold State.complete; dsimp only; split_ifs <;> simp [State.setAction]

@[simp] theorem State.complete_lines (s : State) (n : Slot) (r : ActionRecord) (t : Timestamp) :
    (s.complete n r t).lines = s.lines := by
  unfold State.complete; dsimp only; split_ifs <;> simp [State.setAction]

@[simp] theorem State.complete_pairs (s : State) (n : Slot) (r : ActionRecord) (t : Timestamp) :
    (s.complete n r t).pairs = s.pairs := by
  unfold State.complete; dsimp only; split_ifs <;> simp [State.setAction]

@[simp] theorem State.complete_cutoff (s : State) (n : Slot) (r : ActionRecord) (t : Timestamp) :
    (s.complete n r t).cutoff = s.cutoff := by
  unfold State.complete; dsimp only; split_ifs <;> simp [State.setAction]

@[simp] theorem State.complete_supervisor (s : State) (n : Slot) (r : ActionRecord) (t : Timestamp) :
    (s.complete n r t).supervisor = s.supervisor := by
  unfold State.complete; dsimp only; split_ifs <;> simp [State.setAction]

@[simp] theorem State.complete_label (s : State) (n : Slot) (r : ActionRecord) (t : Timestamp) :
    (s.complete n r t).label = s.label := by
  unfold State.complete; dsimp only; split_ifs <;> simp [State.setAction]

@[simp] theorem State.complete_rights (s : State) (n : Slot) (r : ActionRecord) (t : Timestamp) :
    (s.complete n r t).rights = s.rights := by
  unfold State.complete; dsimp only; split_ifs <;> simp [State.setAction]

@[simp] theorem State.complete_ports (s : State) (n : Slot) (r : ActionRecord) (t : Timestamp) :
    (s.complete n r t).ports = s.ports := by
  unfold State.complete; dsimp only; split_ifs <;> simp [State.setAction]

@[simp] theorem State.complete_arbiter (s : State) (n : Slot) (r : ActionRecord) (t : Timestamp) :
    (s.complete n r t).arbiter = s.arbiter := by
  unfold State.complete; dsimp only; split_ifs <;> simp [State.setAction]

@[simp] theorem State.complete_pending (s : State) (n : Slot) (r : ActionRecord) (t : Timestamp) :
    (s.complete n r t).pending = s.pending := by
  unfold State.complete; dsimp only; split_ifs <;> simp [State.setAction]

@[simp] theorem State.complete_now (s : State) (n : Slot) (r : ActionRecord) (t : Timestamp) :
    (s.complete n r t).now = s.now := by simp only [State.now, State.complete_timebase]

@[simp] theorem State.complete_attachment (s : State) (n : Slot) (r : ActionRecord) (t : Timestamp) (k : Master) :
    (s.complete n r t).attachment k = s.attachment k := by
  simp only [State.attachment, State.port, State.complete_ports]

/-! ### fire -/

@[simp] theorem State.fire_resetHeld (s : State) (n : Slot) (r : ActionRecord) (t : Timestamp) :
    (s.fire n r t).resetHeld = s.resetHeld := by
  unfold State.fire; split <;> simp [State.setAction]

@[simp] theorem State.fire_capPins (s : State) (n : Slot) (r : ActionRecord) (t : Timestamp) :
    (s.fire n r t).capPins = s.capPins := by
  unfold State.fire; split <;> simp [State.setAction]

@[simp] theorem State.fire_syncPin (s : State) (n : Slot) (r : ActionRecord) (t : Timestamp) :
    (s.fire n r t).syncPin = s.syncPin := by
  unfold State.fire; split <;> simp [State.setAction]

@[simp] theorem State.fire_cutoffPin (s : State) (n : Slot) (r : ActionRecord) (t : Timestamp) :
    (s.fire n r t).cutoffPin = s.cutoffPin := by
  unfold State.fire; split <;> simp [State.setAction]

@[simp] theorem State.fire_timebase (s : State) (n : Slot) (r : ActionRecord) (t : Timestamp) :
    (s.fire n r t).timebase = s.timebase := by
  unfold State.fire; split <;> simp [State.setAction]

@[simp] theorem State.fire_groups (s : State) (n : Slot) (r : ActionRecord) (t : Timestamp) :
    (s.fire n r t).groups = s.groups := by
  unfold State.fire; split <;> simp [State.setAction]

@[simp] theorem State.fire_entries (s : State) (n : Slot) (r : ActionRecord) (t : Timestamp) :
    (s.fire n r t).entries = s.entries := by
  unfold State.fire; split <;> simp [State.setAction]

@[simp] theorem State.fire_cutoff (s : State) (n : Slot) (r : ActionRecord) (t : Timestamp) :
    (s.fire n r t).cutoff = s.cutoff := by
  unfold State.fire; split <;> simp [State.setAction]

@[simp] theorem State.fire_supervisor (s : State) (n : Slot) (r : ActionRecord) (t : Timestamp) :
    (s.fire n r t).supervisor = s.supervisor := by
  unfold State.fire; split <;> simp [State.setAction]

@[simp] theorem State.fire_label (s : State) (n : Slot) (r : ActionRecord) (t : Timestamp) :
    (s.fire n r t).label = s.label := by
  unfold State.fire; split <;> simp [State.setAction]

@[simp] theorem State.fire_rights (s : State) (n : Slot) (r : ActionRecord) (t : Timestamp) :
    (s.fire n r t).rights = s.rights := by
  unfold State.fire; split <;> simp [State.setAction]

@[simp] theorem State.fire_ports (s : State) (n : Slot) (r : ActionRecord) (t : Timestamp) :
    (s.fire n r t).ports = s.ports := by
  unfold State.fire; split <;> simp [State.setAction]

@[simp] theorem State.fire_arbiter (s : State) (n : Slot) (r : ActionRecord) (t : Timestamp) :
    (s.fire n r t).arbiter = s.arbiter := by
  unfold State.fire; split <;> simp [State.setAction]

@[simp] theorem State.fire_pending (s : State) (n : Slot) (r : ActionRecord) (t : Timestamp) :
    (s.fire n r t).pending = s.pending := by
  unfold State.fire; split <;> simp [State.setAction]

@[simp] theorem State.fire_now (s : State) (n : Slot) (r : ActionRecord) (t : Timestamp) :
    (s.fire n r t).now = s.now := by simp only [State.now, State.fire_timebase]

@[simp] theorem State.fire_attachment (s : State) (n : Slot) (r : ActionRecord) (t : Timestamp) (k : Master) :
    (s.fire n r t).attachment k = s.attachment k := by
  simp only [State.attachment, State.port, State.fire_ports]

/-! ### endPulse -/

@[simp] theorem State.endPulse_resetHeld (s : State) (n : Slot) (r : ActionRecord) (t : Timestamp) :
    (s.endPulse n r t).resetHeld = s.resetHeld := by
  unfold State.endPulse; simp

@[simp] theorem State.endPulse_capPins (s : State) (n : Slot) (r : ActionRecord) (t : Timestamp) :
    (s.endPulse n r t).capPins = s.capPins := by
  unfold State.endPulse; simp

@[simp] theorem State.endPulse_syncPin (s : State) (n : Slot) (r : ActionRecord) (t : Timestamp) :
    (s.endPulse n r t).syncPin = s.syncPin := by
  unfold State.endPulse; simp

@[simp] theorem State.endPulse_cutoffPin (s : State) (n : Slot) (r : ActionRecord) (t : Timestamp) :
    (s.endPulse n r t).cutoffPin = s.cutoffPin := by
  unfold State.endPulse; simp

@[simp] theorem State.endPulse_timebase (s : State) (n : Slot) (r : ActionRecord) (t : Timestamp) :
    (s.endPulse n r t).timebase = s.timebase := by
  unfold State.endPulse; simp

@[simp] theorem State.endPulse_captures (s : State) (n : Slot) (r : ActionRecord) (t : Timestamp) :
    (s.endPulse n r t).captures = s.captures := by
  unfold State.endPulse; simp

@[simp] theorem State.endPulse_groups (s : State) (n : Slot) (r : ActionRecord) (t : Timestamp) :
    (s.endPulse n r t).groups = s.groups := by
  unfold State.endPulse; simp

@[simp] theorem State.endPulse_entries (s : State) (n : Slot) (r : ActionRecord) (t : Timestamp) :
    (s.endPulse n r t).entries = s.entries := by
  unfold State.endPulse; simp

@[simp] theorem State.endPulse_cutoff (s : State) (n : Slot) (r : ActionRecord) (t : Timestamp) :
    (s.endPulse n r t).cutoff = s.cutoff := by
  unfold State.endPulse; simp

@[simp] theorem State.endPulse_supervisor (s : State) (n : Slot) (r : ActionRecord) (t : Timestamp) :
    (s.endPulse n r t).supervisor = s.supervisor := by
  unfold State.endPulse; simp

@[simp] theorem State.endPulse_label (s : State) (n : Slot) (r : ActionRecord) (t : Timestamp) :
    (s.endPulse n r t).label = s.label := by
  unfold State.endPulse; simp

@[simp] theorem State.endPulse_rights (s : State) (n : Slot) (r : ActionRecord) (t : Timestamp) :
    (s.endPulse n r t).rights = s.rights := by
  unfold State.endPulse; simp

@[simp] theorem State.endPulse_ports (s : State) (n : Slot) (r : ActionRecord) (t : Timestamp) :
    (s.endPulse n r t).ports = s.ports := by
  unfold State.endPulse; simp

@[simp] theorem State.endPulse_arbiter (s : State) (n : Slot) (r : ActionRecord) (t : Timestamp) :
    (s.endPulse n r t).arbiter = s.arbiter := by
  unfold State.endPulse; simp

@[simp] theorem State.endPulse_pending (s : State) (n : Slot) (r : ActionRecord) (t : Timestamp) :
    (s.endPulse n r t).pending = s.pending := by
  unfold State.endPulse; simp

@[simp] theorem State.endPulse_now (s : State) (n : Slot) (r : ActionRecord) (t : Timestamp) :
    (s.endPulse n r t).now = s.now := by simp only [State.now, State.endPulse_timebase]

@[simp] theorem State.endPulse_attachment (s : State) (n : Slot) (r : ActionRecord) (t : Timestamp) (k : Master) :
    (s.endPulse n r t).attachment k = s.attachment k := by
  simp only [State.attachment, State.port, State.endPulse_ports]

/-! ### takeEnd -/

@[simp] theorem State.takeEnd_resetHeld (s : State) (n : Slot) :
    (s.takeEnd n).resetHeld = s.resetHeld := by
  unfold State.takeEnd; split_ifs
  · split <;> simp
  · rfl

@[simp] theorem State.takeEnd_capPins (s : State) (n : Slot) :
    (s.takeEnd n).capPins = s.capPins := by
  unfold State.takeEnd; split_ifs
  · split <;> simp
  · rfl

@[simp] theorem State.takeEnd_syncPin (s : State) (n : Slot) :
    (s.takeEnd n).syncPin = s.syncPin := by
  unfold State.takeEnd; split_ifs
  · split <;> simp
  · rfl

@[simp] theorem State.takeEnd_cutoffPin (s : State) (n : Slot) :
    (s.takeEnd n).cutoffPin = s.cutoffPin := by
  unfold State.takeEnd; split_ifs
  · split <;> simp
  · rfl

@[simp] theorem State.takeEnd_timebase (s : State) (n : Slot) :
    (s.takeEnd n).timebase = s.timebase := by
  unfold State.takeEnd; split_ifs
  · split <;> simp
  · rfl

@[simp] theorem State.takeEnd_captures (s : State) (n : Slot) :
    (s.takeEnd n).captures = s.captures := by
  unfold State.takeEnd; split_ifs
  · split <;> simp
  · rfl

@[simp] theorem State.takeEnd_groups (s : State) (n : Slot) :
    (s.takeEnd n).groups = s.groups := by
  unfold State.takeEnd; split_ifs
  · split <;> simp
  · rfl

@[simp] theorem State.takeEnd_entries (s : State) (n : Slot) :
    (s.takeEnd n).entries = s.entries := by
  unfold State.takeEnd; split_ifs
  · split <;> simp
  · rfl

@[simp] theorem State.takeEnd_cutoff (s : State) (n : Slot) :
    (s.takeEnd n).cutoff = s.cutoff := by
  unfold State.takeEnd; split_ifs
  · split <;> simp
  · rfl

@[simp] theorem State.takeEnd_supervisor (s : State) (n : Slot) :
    (s.takeEnd n).supervisor = s.supervisor := by
  unfold State.takeEnd; split_ifs
  · split <;> simp
  · rfl

@[simp] theorem State.takeEnd_label (s : State) (n : Slot) :
    (s.takeEnd n).label = s.label := by
  unfold State.takeEnd; split_ifs
  · split <;> simp
  · rfl

@[simp] theorem State.takeEnd_rights (s : State) (n : Slot) :
    (s.takeEnd n).rights = s.rights := by
  unfold State.takeEnd; split_ifs
  · split <;> simp
  · rfl

@[simp] theorem State.takeEnd_ports (s : State) (n : Slot) :
    (s.takeEnd n).ports = s.ports := by
  unfold State.takeEnd; split_ifs
  · split <;> simp
  · rfl

@[simp] theorem State.takeEnd_arbiter (s : State) (n : Slot) :
    (s.takeEnd n).arbiter = s.arbiter := by
  unfold State.takeEnd; split_ifs
  · split <;> simp
  · rfl

@[simp] theorem State.takeEnd_pending (s : State) (n : Slot) :
    (s.takeEnd n).pending = s.pending := by
  unfold State.takeEnd; split_ifs
  · split <;> simp
  · rfl

@[simp] theorem State.takeEnd_now (s : State) (n : Slot) :
    (s.takeEnd n).now = s.now := by simp only [State.now, State.takeEnd_timebase]

@[simp] theorem State.takeEnd_attachment (s : State) (n : Slot) (k : Master) :
    (s.takeEnd n).attachment k = s.attachment k := by
  simp only [State.attachment, State.port, State.takeEnd_ports]

/-! ### takeFire -/

@[simp] theorem State.takeFire_resetHeld (s : State) (n : Slot) :
    (s.takeFire n).resetHeld = s.resetHeld := by
  unfold State.takeFire; split_ifs
  · split <;> simp
  · rfl

@[simp] theorem State.takeFire_capPins (s : State) (n : Slot) :
    (s.takeFire n).capPins = s.capPins := by
  unfold State.takeFire; split_ifs
  · split <;> simp
  · rfl

@[simp] theorem State.takeFire_syncPin (s : State) (n : Slot) :
    (s.takeFire n).syncPin = s.syncPin := by
  unfold State.takeFire; split_ifs
  · split <;> simp
  · rfl

@[simp] theorem State.takeFire_cutoffPin (s : State) (n : Slot) :
    (s.takeFire n).cutoffPin = s.cutoffPin := by
  unfold State.takeFire; split_ifs
  · split <;> simp
  · rfl

@[simp] theorem State.takeFire_timebase (s : State) (n : Slot) :
    (s.takeFire n).timebase = s.timebase := by
  unfold State.takeFire; split_ifs
  · split <;> simp
  · rfl

@[simp] theorem State.takeFire_groups (s : State) (n : Slot) :
    (s.takeFire n).groups = s.groups := by
  unfold State.takeFire; split_ifs
  · split <;> simp
  · rfl

@[simp] theorem State.takeFire_entries (s : State) (n : Slot) :
    (s.takeFire n).entries = s.entries := by
  unfold State.takeFire; split_ifs
  · split <;> simp
  · rfl

@[simp] theorem State.takeFire_cutoff (s : State) (n : Slot) :
    (s.takeFire n).cutoff = s.cutoff := by
  unfold State.takeFire; split_ifs
  · split <;> simp
  · rfl

@[simp] theorem State.takeFire_supervisor (s : State) (n : Slot) :
    (s.takeFire n).supervisor = s.supervisor := by
  unfold State.takeFire; split_ifs
  · split <;> simp
  · rfl

@[simp] theorem State.takeFire_label (s : State) (n : Slot) :
    (s.takeFire n).label = s.label := by
  unfold State.takeFire; split_ifs
  · split <;> simp
  · rfl

@[simp] theorem State.takeFire_rights (s : State) (n : Slot) :
    (s.takeFire n).rights = s.rights := by
  unfold State.takeFire; split_ifs
  · split <;> simp
  · rfl

@[simp] theorem State.takeFire_ports (s : State) (n : Slot) :
    (s.takeFire n).ports = s.ports := by
  unfold State.takeFire; split_ifs
  · split <;> simp
  · rfl

@[simp] theorem State.takeFire_arbiter (s : State) (n : Slot) :
    (s.takeFire n).arbiter = s.arbiter := by
  unfold State.takeFire; split_ifs
  · split <;> simp
  · rfl

@[simp] theorem State.takeFire_pending (s : State) (n : Slot) :
    (s.takeFire n).pending = s.pending := by
  unfold State.takeFire; split_ifs
  · split <;> simp
  · rfl

@[simp] theorem State.takeFire_now (s : State) (n : Slot) :
    (s.takeFire n).now = s.now := by simp only [State.now, State.takeFire_timebase]

@[simp] theorem State.takeFire_attachment (s : State) (n : Slot) (k : Master) :
    (s.takeFire n).attachment k = s.attachment k := by
  simp only [State.attachment, State.port, State.takeFire_ports]

/-! ### takeAll -/

@[simp] theorem State.takeAll_resetHeld (s : State) :
    (s.takeAll).resetHeld = s.resetHeld := by
  unfold State.takeAll; dsimp only
  rw [foldl_field State.resetHeld _ _ (fun u n => by simp), foldl_field State.resetHeld _ _ (fun u n => by simp),
    foldl_field State.resetHeld _ _ (fun u p => by simp)]

@[simp] theorem State.takeAll_capPins (s : State) :
    (s.takeAll).capPins = s.capPins := by
  unfold State.takeAll; dsimp only
  rw [foldl_field State.capPins _ _ (fun u n => by simp), foldl_field State.capPins _ _ (fun u n => by simp),
    foldl_field State.capPins _ _ (fun u p => by simp)]

@[simp] theorem State.takeAll_syncPin (s : State) :
    (s.takeAll).syncPin = s.syncPin := by
  unfold State.takeAll; dsimp only
  rw [foldl_field State.syncPin _ _ (fun u n => by simp), foldl_field State.syncPin _ _ (fun u n => by simp),
    foldl_field State.syncPin _ _ (fun u p => by simp)]

@[simp] theorem State.takeAll_cutoffPin (s : State) :
    (s.takeAll).cutoffPin = s.cutoffPin := by
  unfold State.takeAll; dsimp only
  rw [foldl_field State.cutoffPin _ _ (fun u n => by simp), foldl_field State.cutoffPin _ _ (fun u n => by simp),
    foldl_field State.cutoffPin _ _ (fun u p => by simp)]

@[simp] theorem State.takeAll_timebase (s : State) :
    (s.takeAll).timebase = s.timebase := by
  unfold State.takeAll; dsimp only
  rw [foldl_field State.timebase _ _ (fun u n => by simp), foldl_field State.timebase _ _ (fun u n => by simp),
    foldl_field State.timebase _ _ (fun u p => by simp)]

@[simp] theorem State.takeAll_groups (s : State) :
    (s.takeAll).groups = s.groups := by
  unfold State.takeAll; dsimp only
  rw [foldl_field State.groups _ _ (fun u n => by simp), foldl_field State.groups _ _ (fun u n => by simp),
    foldl_field State.groups _ _ (fun u p => by simp)]

@[simp] theorem State.takeAll_entries (s : State) :
    (s.takeAll).entries = s.entries := by
  unfold State.takeAll; dsimp only
  rw [foldl_field State.entries _ _ (fun u n => by simp), foldl_field State.entries _ _ (fun u n => by simp),
    foldl_field State.entries _ _ (fun u p => by simp)]

@[simp] theorem State.takeAll_cutoff (s : State) :
    (s.takeAll).cutoff = s.cutoff := by
  unfold State.takeAll; dsimp only
  rw [foldl_field State.cutoff _ _ (fun u n => by simp), foldl_field State.cutoff _ _ (fun u n => by simp),
    foldl_field State.cutoff _ _ (fun u p => by simp)]

@[simp] theorem State.takeAll_supervisor (s : State) :
    (s.takeAll).supervisor = s.supervisor := by
  unfold State.takeAll; dsimp only
  rw [foldl_field State.supervisor _ _ (fun u n => by simp), foldl_field State.supervisor _ _ (fun u n => by simp),
    foldl_field State.supervisor _ _ (fun u p => by simp)]

@[simp] theorem State.takeAll_label (s : State) :
    (s.takeAll).label = s.label := by
  unfold State.takeAll; dsimp only
  rw [foldl_field State.label _ _ (fun u n => by simp), foldl_field State.label _ _ (fun u n => by simp),
    foldl_field State.label _ _ (fun u p => by simp)]

@[simp] theorem State.takeAll_rights (s : State) :
    (s.takeAll).rights = s.rights := by
  unfold State.takeAll; dsimp only
  rw [foldl_field State.rights _ _ (fun u n => by simp), foldl_field State.rights _ _ (fun u n => by simp),
    foldl_field State.rights _ _ (fun u p => by simp)]

@[simp] theorem State.takeAll_ports (s : State) :
    (s.takeAll).ports = s.ports := by
  unfold State.takeAll; dsimp only
  rw [foldl_field State.ports _ _ (fun u n => by simp), foldl_field State.ports _ _ (fun u n => by simp),
    foldl_field State.ports _ _ (fun u p => by simp)]

@[simp] theorem State.takeAll_arbiter (s : State) :
    (s.takeAll).arbiter = s.arbiter := by
  unfold State.takeAll; dsimp only
  rw [foldl_field State.arbiter _ _ (fun u n => by simp), foldl_field State.arbiter _ _ (fun u n => by simp),
    foldl_field State.arbiter _ _ (fun u p => by simp)]

@[simp] theorem State.takeAll_pending (s : State) :
    (s.takeAll).pending = s.pending := by
  unfold State.takeAll; dsimp only
  rw [foldl_field State.pending _ _ (fun u n => by simp), foldl_field State.pending _ _ (fun u n => by simp),
    foldl_field State.pending _ _ (fun u p => by simp)]

@[simp] theorem State.takeAll_now (s : State) :
    (s.takeAll).now = s.now := by simp only [State.now, State.takeAll_timebase]

@[simp] theorem State.takeAll_attachment (s : State) (k : Master) :
    (s.takeAll).attachment k = s.attachment k := by
  simp only [State.attachment, State.port, State.takeAll_ports]

/-! ### settle -/

@[simp] theorem State.settle_resetHeld (s : State) :
    (s.settle).resetHeld = s.resetHeld := by
  unfold State.settle; split_ifs <;> simp

@[simp] theorem State.settle_capPins (s : State) :
    (s.settle).capPins = s.capPins := by
  unfold State.settle; split_ifs <;> simp

@[simp] theorem State.settle_syncPin (s : State) :
    (s.settle).syncPin = s.syncPin := by
  unfold State.settle; split_ifs <;> simp

@[simp] theorem State.settle_cutoffPin (s : State) :
    (s.settle).cutoffPin = s.cutoffPin := by
  unfold State.settle; split_ifs <;> simp

@[simp] theorem State.settle_timebase (s : State) :
    (s.settle).timebase = s.timebase := by
  unfold State.settle; split_ifs <;> simp

@[simp] theorem State.settle_groups (s : State) :
    (s.settle).groups = s.groups := by
  unfold State.settle; split_ifs <;> simp

@[simp] theorem State.settle_entries (s : State) :
    (s.settle).entries = s.entries := by
  unfold State.settle; split_ifs <;> simp

@[simp] theorem State.settle_cutoff (s : State) :
    (s.settle).cutoff = s.cutoff := by
  unfold State.settle; split_ifs <;> simp

@[simp] theorem State.settle_supervisor (s : State) :
    (s.settle).supervisor = s.supervisor := by
  unfold State.settle; split_ifs <;> simp

@[simp] theorem State.settle_label (s : State) :
    (s.settle).label = s.label := by
  unfold State.settle; split_ifs <;> simp

@[simp] theorem State.settle_rights (s : State) :
    (s.settle).rights = s.rights := by
  unfold State.settle; split_ifs <;> simp

@[simp] theorem State.settle_ports (s : State) :
    (s.settle).ports = s.ports := by
  unfold State.settle; split_ifs <;> simp

@[simp] theorem State.settle_arbiter (s : State) :
    (s.settle).arbiter = s.arbiter := by
  unfold State.settle; split_ifs <;> simp

@[simp] theorem State.settle_pending (s : State) :
    (s.settle).pending = s.pending := by
  unfold State.settle; split_ifs <;> simp

@[simp] theorem State.settle_now (s : State) :
    (s.settle).now = s.now := by simp only [State.now, State.settle_timebase]

@[simp] theorem State.settle_attachment (s : State) (k : Master) :
    (s.settle).attachment k = s.attachment k := by
  simp only [State.attachment, State.port, State.settle_ports]

/-! ### notifyCancelled -/

@[simp] theorem State.notifyCancelled_resetHeld (s : State) (q : ActionRecord → Bool) (c : CancelReason) (t : Timestamp) :
    (s.notifyCancelled q c t).resetHeld = s.resetHeld := by
  unfold State.notifyCancelled
  exact foldl_field State.resetHeld _ _ (fun u n => by split <;> (try split_ifs) <;> simp) s

@[simp] theorem State.notifyCancelled_capPins (s : State) (q : ActionRecord → Bool) (c : CancelReason) (t : Timestamp) :
    (s.notifyCancelled q c t).capPins = s.capPins := by
  unfold State.notifyCancelled
  exact foldl_field State.capPins _ _ (fun u n => by split <;> (try split_ifs) <;> simp) s

@[simp] theorem State.notifyCancelled_syncPin (s : State) (q : ActionRecord → Bool) (c : CancelReason) (t : Timestamp) :
    (s.notifyCancelled q c t).syncPin = s.syncPin := by
  unfold State.notifyCancelled
  exact foldl_field State.syncPin _ _ (fun u n => by split <;> (try split_ifs) <;> simp) s

@[simp] theorem State.notifyCancelled_cutoffPin (s : State) (q : ActionRecord → Bool) (c : CancelReason) (t : Timestamp) :
    (s.notifyCancelled q c t).cutoffPin = s.cutoffPin := by
  unfold State.notifyCancelled
  exact foldl_field State.cutoffPin _ _ (fun u n => by split <;> (try split_ifs) <;> simp) s

@[simp] theorem State.notifyCancelled_timebase (s : State) (q : ActionRecord → Bool) (c : CancelReason) (t : Timestamp) :
    (s.notifyCancelled q c t).timebase = s.timebase := by
  unfold State.notifyCancelled
  exact foldl_field State.timebase _ _ (fun u n => by split <;> (try split_ifs) <;> simp) s

@[simp] theorem State.notifyCancelled_captures (s : State) (q : ActionRecord → Bool) (c : CancelReason) (t : Timestamp) :
    (s.notifyCancelled q c t).captures = s.captures := by
  unfold State.notifyCancelled
  exact foldl_field State.captures _ _ (fun u n => by split <;> (try split_ifs) <;> simp) s

@[simp] theorem State.notifyCancelled_groups (s : State) (q : ActionRecord → Bool) (c : CancelReason) (t : Timestamp) :
    (s.notifyCancelled q c t).groups = s.groups := by
  unfold State.notifyCancelled
  exact foldl_field State.groups _ _ (fun u n => by split <;> (try split_ifs) <;> simp) s

@[simp] theorem State.notifyCancelled_entries (s : State) (q : ActionRecord → Bool) (c : CancelReason) (t : Timestamp) :
    (s.notifyCancelled q c t).entries = s.entries := by
  unfold State.notifyCancelled
  exact foldl_field State.entries _ _ (fun u n => by split <;> (try split_ifs) <;> simp) s

@[simp] theorem State.notifyCancelled_actions (s : State) (q : ActionRecord → Bool) (c : CancelReason) (t : Timestamp) :
    (s.notifyCancelled q c t).actions = s.actions := by
  unfold State.notifyCancelled
  exact foldl_field State.actions _ _ (fun u n => by split <;> (try split_ifs) <;> simp) s

@[simp] theorem State.notifyCancelled_lines (s : State) (q : ActionRecord → Bool) (c : CancelReason) (t : Timestamp) :
    (s.notifyCancelled q c t).lines = s.lines := by
  unfold State.notifyCancelled
  exact foldl_field State.lines _ _ (fun u n => by split <;> (try split_ifs) <;> simp) s

@[simp] theorem State.notifyCancelled_pairs (s : State) (q : ActionRecord → Bool) (c : CancelReason) (t : Timestamp) :
    (s.notifyCancelled q c t).pairs = s.pairs := by
  unfold State.notifyCancelled
  exact foldl_field State.pairs _ _ (fun u n => by split <;> (try split_ifs) <;> simp) s

@[simp] theorem State.notifyCancelled_cutoff (s : State) (q : ActionRecord → Bool) (c : CancelReason) (t : Timestamp) :
    (s.notifyCancelled q c t).cutoff = s.cutoff := by
  unfold State.notifyCancelled
  exact foldl_field State.cutoff _ _ (fun u n => by split <;> (try split_ifs) <;> simp) s

@[simp] theorem State.notifyCancelled_supervisor (s : State) (q : ActionRecord → Bool) (c : CancelReason) (t : Timestamp) :
    (s.notifyCancelled q c t).supervisor = s.supervisor := by
  unfold State.notifyCancelled
  exact foldl_field State.supervisor _ _ (fun u n => by split <;> (try split_ifs) <;> simp) s

@[simp] theorem State.notifyCancelled_label (s : State) (q : ActionRecord → Bool) (c : CancelReason) (t : Timestamp) :
    (s.notifyCancelled q c t).label = s.label := by
  unfold State.notifyCancelled
  exact foldl_field State.label _ _ (fun u n => by split <;> (try split_ifs) <;> simp) s

@[simp] theorem State.notifyCancelled_rights (s : State) (q : ActionRecord → Bool) (c : CancelReason) (t : Timestamp) :
    (s.notifyCancelled q c t).rights = s.rights := by
  unfold State.notifyCancelled
  exact foldl_field State.rights _ _ (fun u n => by split <;> (try split_ifs) <;> simp) s

@[simp] theorem State.notifyCancelled_ports (s : State) (q : ActionRecord → Bool) (c : CancelReason) (t : Timestamp) :
    (s.notifyCancelled q c t).ports = s.ports := by
  unfold State.notifyCancelled
  exact foldl_field State.ports _ _ (fun u n => by split <;> (try split_ifs) <;> simp) s

@[simp] theorem State.notifyCancelled_arbiter (s : State) (q : ActionRecord → Bool) (c : CancelReason) (t : Timestamp) :
    (s.notifyCancelled q c t).arbiter = s.arbiter := by
  unfold State.notifyCancelled
  exact foldl_field State.arbiter _ _ (fun u n => by split <;> (try split_ifs) <;> simp) s

@[simp] theorem State.notifyCancelled_pending (s : State) (q : ActionRecord → Bool) (c : CancelReason) (t : Timestamp) :
    (s.notifyCancelled q c t).pending = s.pending := by
  unfold State.notifyCancelled
  exact foldl_field State.pending _ _ (fun u n => by split <;> (try split_ifs) <;> simp) s

@[simp] theorem State.notifyCancelled_now (s : State) (q : ActionRecord → Bool) (c : CancelReason) (t : Timestamp) :
    (s.notifyCancelled q c t).now = s.now := by simp only [State.now, State.notifyCancelled_timebase]

@[simp] theorem State.notifyCancelled_attachment (s : State) (q : ActionRecord → Bool) (c : CancelReason) (t : Timestamp) (k : Master) :
    (s.notifyCancelled q c t).attachment k = s.attachment k := by
  simp only [State.attachment, State.port, State.notifyCancelled_ports]

/-! ### dropRecords -/

@[simp] theorem State.dropRecords_captures (s : State) (q : ActionRecord → Bool) :
    (s.dropRecords q).captures = s.captures := by
  simp only [State.dropRecords]

@[simp] theorem State.dropRecords_groups (s : State) (q : ActionRecord → Bool) :
    (s.dropRecords q).groups = s.groups := by
  simp only [State.dropRecords]

@[simp] theorem State.dropRecords_entries (s : State) (q : ActionRecord → Bool) :
    (s.dropRecords q).entries = s.entries := by
  simp only [State.dropRecords]

@[simp] theorem State.dropRecords_queues (s : State) (q : ActionRecord → Bool) :
    (s.dropRecords q).queues = s.queues := by
  simp only [State.dropRecords]

@[simp] theorem State.dropRecords_lines (s : State) (q : ActionRecord → Bool) :
    (s.dropRecords q).lines = s.lines := by
  simp only [State.dropRecords]

@[simp] theorem State.dropRecords_pairs (s : State) (q : ActionRecord → Bool) :
    (s.dropRecords q).pairs = s.pairs := by
  simp only [State.dropRecords]

@[simp] theorem State.dropRecords_rights (s : State) (q : ActionRecord → Bool) :
    (s.dropRecords q).rights = s.rights := by
  simp only [State.dropRecords]

@[simp] theorem State.dropRecords_ports (s : State) (q : ActionRecord → Bool) :
    (s.dropRecords q).ports = s.ports := by
  simp only [State.dropRecords]

/-! ### cancelRecords -/

@[simp] theorem State.cancelRecords_resetHeld (s : State) (q : ActionRecord → Bool) (c : CancelReason) (t : Timestamp) :
    (s.cancelRecords q c t).resetHeld = s.resetHeld := by
  unfold State.cancelRecords; simp

@[simp] theorem State.cancelRecords_capPins (s : State) (q : ActionRecord → Bool) (c : CancelReason) (t : Timestamp) :
    (s.cancelRecords q c t).capPins = s.capPins := by
  unfold State.cancelRecords; simp

@[simp] theorem State.cancelRecords_syncPin (s : State) (q : ActionRecord → Bool) (c : CancelReason) (t : Timestamp) :
    (s.cancelRecords q c t).syncPin = s.syncPin := by
  unfold State.cancelRecords; simp

@[simp] theorem State.cancelRecords_cutoffPin (s : State) (q : ActionRecord → Bool) (c : CancelReason) (t : Timestamp) :
    (s.cancelRecords q c t).cutoffPin = s.cutoffPin := by
  unfold State.cancelRecords; simp

@[simp] theorem State.cancelRecords_timebase (s : State) (q : ActionRecord → Bool) (c : CancelReason) (t : Timestamp) :
    (s.cancelRecords q c t).timebase = s.timebase := by
  unfold State.cancelRecords; simp

@[simp] theorem State.cancelRecords_captures (s : State) (q : ActionRecord → Bool) (c : CancelReason) (t : Timestamp) :
    (s.cancelRecords q c t).captures = s.captures := by
  unfold State.cancelRecords; simp

@[simp] theorem State.cancelRecords_groups (s : State) (q : ActionRecord → Bool) (c : CancelReason) (t : Timestamp) :
    (s.cancelRecords q c t).groups = s.groups := by
  unfold State.cancelRecords; simp

@[simp] theorem State.cancelRecords_entries (s : State) (q : ActionRecord → Bool) (c : CancelReason) (t : Timestamp) :
    (s.cancelRecords q c t).entries = s.entries := by
  unfold State.cancelRecords; simp

@[simp] theorem State.cancelRecords_lines (s : State) (q : ActionRecord → Bool) (c : CancelReason) (t : Timestamp) :
    (s.cancelRecords q c t).lines = s.lines := by
  unfold State.cancelRecords; simp

@[simp] theorem State.cancelRecords_pairs (s : State) (q : ActionRecord → Bool) (c : CancelReason) (t : Timestamp) :
    (s.cancelRecords q c t).pairs = s.pairs := by
  unfold State.cancelRecords; simp

@[simp] theorem State.cancelRecords_cutoff (s : State) (q : ActionRecord → Bool) (c : CancelReason) (t : Timestamp) :
    (s.cancelRecords q c t).cutoff = s.cutoff := by
  unfold State.cancelRecords; simp

@[simp] theorem State.cancelRecords_supervisor (s : State) (q : ActionRecord → Bool) (c : CancelReason) (t : Timestamp) :
    (s.cancelRecords q c t).supervisor = s.supervisor := by
  unfold State.cancelRecords; simp

@[simp] theorem State.cancelRecords_label (s : State) (q : ActionRecord → Bool) (c : CancelReason) (t : Timestamp) :
    (s.cancelRecords q c t).label = s.label := by
  unfold State.cancelRecords; simp

@[simp] theorem State.cancelRecords_rights (s : State) (q : ActionRecord → Bool) (c : CancelReason) (t : Timestamp) :
    (s.cancelRecords q c t).rights = s.rights := by
  unfold State.cancelRecords; simp

@[simp] theorem State.cancelRecords_ports (s : State) (q : ActionRecord → Bool) (c : CancelReason) (t : Timestamp) :
    (s.cancelRecords q c t).ports = s.ports := by
  unfold State.cancelRecords; simp

@[simp] theorem State.cancelRecords_arbiter (s : State) (q : ActionRecord → Bool) (c : CancelReason) (t : Timestamp) :
    (s.cancelRecords q c t).arbiter = s.arbiter := by
  unfold State.cancelRecords; simp

@[simp] theorem State.cancelRecords_pending (s : State) (q : ActionRecord → Bool) (c : CancelReason) (t : Timestamp) :
    (s.cancelRecords q c t).pending = s.pending := by
  unfold State.cancelRecords; simp

@[simp] theorem State.cancelRecords_now (s : State) (q : ActionRecord → Bool) (c : CancelReason) (t : Timestamp) :
    (s.cancelRecords q c t).now = s.now := by simp only [State.now, State.cancelRecords_timebase]

@[simp] theorem State.cancelRecords_attachment (s : State) (q : ActionRecord → Bool) (c : CancelReason) (t : Timestamp) (k : Master) :
    (s.cancelRecords q c t).attachment k = s.attachment k := by
  simp only [State.attachment, State.port, State.cancelRecords_ports]

/-! ### rebase -/

@[simp] theorem State.rebase_captures (s : State) (c v : Count) :
    (s.rebase c v).captures = s.captures := by
  simp only [State.rebase]

@[simp] theorem State.rebase_groups (s : State) (c v : Count) :
    (s.rebase c v).groups = s.groups := by
  simp only [State.rebase]

@[simp] theorem State.rebase_entries (s : State) (c v : Count) :
    (s.rebase c v).entries = s.entries := by
  simp only [State.rebase]

@[simp] theorem State.rebase_queues (s : State) (c v : Count) :
    (s.rebase c v).queues = s.queues := by
  simp only [State.rebase]

@[simp] theorem State.rebase_lines (s : State) (c v : Count) :
    (s.rebase c v).lines = s.lines := by
  simp only [State.rebase]

@[simp] theorem State.rebase_pairs (s : State) (c v : Count) :
    (s.rebase c v).pairs = s.pairs := by
  simp only [State.rebase]

@[simp] theorem State.rebase_rights (s : State) (c v : Count) :
    (s.rebase c v).rights = s.rights := by
  simp only [State.rebase]

@[simp] theorem State.rebase_ports (s : State) (c v : Count) :
    (s.rebase c v).ports = s.ports := by
  simp only [State.rebase]

/-! ### trip -/

@[simp] theorem State.trip_resetHeld (s : State) (src : CutSource) (t : Timestamp) :
    (s.trip src t).resetHeld = s.resetHeld := by
  unfold State.trip; dsimp only
  refine State.inAnyOrder_field State.resetHeld (fun _ => rfl) ?_
  intro g hg u
  simp only [List.mem_append, List.mem_singleton, mem_unless] at hg
  rcases hg with ⟨-, rfl⟩ | rfl <;> simp

@[simp] theorem State.trip_capPins (s : State) (src : CutSource) (t : Timestamp) :
    (s.trip src t).capPins = s.capPins := by
  unfold State.trip; dsimp only
  refine State.inAnyOrder_field State.capPins (fun _ => rfl) ?_
  intro g hg u
  simp only [List.mem_append, List.mem_singleton, mem_unless] at hg
  rcases hg with ⟨-, rfl⟩ | rfl <;> simp

@[simp] theorem State.trip_syncPin (s : State) (src : CutSource) (t : Timestamp) :
    (s.trip src t).syncPin = s.syncPin := by
  unfold State.trip; dsimp only
  refine State.inAnyOrder_field State.syncPin (fun _ => rfl) ?_
  intro g hg u
  simp only [List.mem_append, List.mem_singleton, mem_unless] at hg
  rcases hg with ⟨-, rfl⟩ | rfl <;> simp

@[simp] theorem State.trip_cutoffPin (s : State) (src : CutSource) (t : Timestamp) :
    (s.trip src t).cutoffPin = s.cutoffPin := by
  unfold State.trip; dsimp only
  refine State.inAnyOrder_field State.cutoffPin (fun _ => rfl) ?_
  intro g hg u
  simp only [List.mem_append, List.mem_singleton, mem_unless] at hg
  rcases hg with ⟨-, rfl⟩ | rfl <;> simp

@[simp] theorem State.trip_timebase (s : State) (src : CutSource) (t : Timestamp) :
    (s.trip src t).timebase = s.timebase := by
  unfold State.trip; dsimp only
  refine State.inAnyOrder_field State.timebase (fun _ => rfl) ?_
  intro g hg u
  simp only [List.mem_append, List.mem_singleton, mem_unless] at hg
  rcases hg with ⟨-, rfl⟩ | rfl <;> simp

@[simp] theorem State.trip_captures (s : State) (src : CutSource) (t : Timestamp) :
    (s.trip src t).captures = s.captures := by
  unfold State.trip; dsimp only
  refine State.inAnyOrder_field State.captures (fun _ => rfl) ?_
  intro g hg u
  simp only [List.mem_append, List.mem_singleton, mem_unless] at hg
  rcases hg with ⟨-, rfl⟩ | rfl <;> simp

@[simp] theorem State.trip_groups (s : State) (src : CutSource) (t : Timestamp) :
    (s.trip src t).groups = s.groups := by
  unfold State.trip; dsimp only
  refine State.inAnyOrder_field State.groups (fun _ => rfl) ?_
  intro g hg u
  simp only [List.mem_append, List.mem_singleton, mem_unless] at hg
  rcases hg with ⟨-, rfl⟩ | rfl <;> simp

@[simp] theorem State.trip_supervisor (s : State) (src : CutSource) (t : Timestamp) :
    (s.trip src t).supervisor = s.supervisor := by
  unfold State.trip; dsimp only
  refine State.inAnyOrder_field State.supervisor (fun _ => rfl) ?_
  intro g hg u
  simp only [List.mem_append, List.mem_singleton, mem_unless] at hg
  rcases hg with ⟨-, rfl⟩ | rfl <;> simp

@[simp] theorem State.trip_label (s : State) (src : CutSource) (t : Timestamp) :
    (s.trip src t).label = s.label := by
  unfold State.trip; dsimp only
  refine State.inAnyOrder_field State.label (fun _ => rfl) ?_
  intro g hg u
  simp only [List.mem_append, List.mem_singleton, mem_unless] at hg
  rcases hg with ⟨-, rfl⟩ | rfl <;> simp

@[simp] theorem State.trip_rights (s : State) (src : CutSource) (t : Timestamp) :
    (s.trip src t).rights = s.rights := by
  unfold State.trip; dsimp only
  refine State.inAnyOrder_field State.rights (fun _ => rfl) ?_
  intro g hg u
  simp only [List.mem_append, List.mem_singleton, mem_unless] at hg
  rcases hg with ⟨-, rfl⟩ | rfl <;> simp

@[simp] theorem State.trip_ports (s : State) (src : CutSource) (t : Timestamp) :
    (s.trip src t).ports = s.ports := by
  unfold State.trip; dsimp only
  refine State.inAnyOrder_field State.ports (fun _ => rfl) ?_
  intro g hg u
  simp only [List.mem_append, List.mem_singleton, mem_unless] at hg
  rcases hg with ⟨-, rfl⟩ | rfl <;> simp

@[simp] theorem State.trip_pending (s : State) (src : CutSource) (t : Timestamp) :
    (s.trip src t).pending = s.pending := by
  unfold State.trip; dsimp only
  refine State.inAnyOrder_field State.pending (fun _ => rfl) ?_
  intro g hg u
  simp only [List.mem_append, List.mem_singleton, mem_unless] at hg
  rcases hg with ⟨-, rfl⟩ | rfl <;> simp

@[simp] theorem State.trip_now (s : State) (src : CutSource) (t : Timestamp) :
    (s.trip src t).now = s.now := by simp only [State.now, State.trip_timebase]

@[simp] theorem State.trip_attachment (s : State) (src : CutSource) (t : Timestamp) (k : Master) :
    (s.trip src t).attachment k = s.attachment k := by
  simp only [State.attachment, State.port, State.trip_ports]

/-! ### sourceAsserts -/

@[simp] theorem State.sourceAsserts_resetHeld (s : State) (src : CutSource) (t : Timestamp) :
    (s.sourceAsserts src t).resetHeld = s.resetHeld := by
  unfold State.sourceAsserts; split <;> simp [State.setCutoff]

@[simp] theorem State.sourceAsserts_capPins (s : State) (src : CutSource) (t : Timestamp) :
    (s.sourceAsserts src t).capPins = s.capPins := by
  unfold State.sourceAsserts; split <;> simp [State.setCutoff]

@[simp] theorem State.sourceAsserts_syncPin (s : State) (src : CutSource) (t : Timestamp) :
    (s.sourceAsserts src t).syncPin = s.syncPin := by
  unfold State.sourceAsserts; split <;> simp [State.setCutoff]

@[simp] theorem State.sourceAsserts_cutoffPin (s : State) (src : CutSource) (t : Timestamp) :
    (s.sourceAsserts src t).cutoffPin = s.cutoffPin := by
  unfold State.sourceAsserts; split <;> simp [State.setCutoff]

@[simp] theorem State.sourceAsserts_timebase (s : State) (src : CutSource) (t : Timestamp) :
    (s.sourceAsserts src t).timebase = s.timebase := by
  unfold State.sourceAsserts; split <;> simp [State.setCutoff]

@[simp] theorem State.sourceAsserts_captures (s : State) (src : CutSource) (t : Timestamp) :
    (s.sourceAsserts src t).captures = s.captures := by
  unfold State.sourceAsserts; split <;> simp [State.setCutoff]

@[simp] theorem State.sourceAsserts_groups (s : State) (src : CutSource) (t : Timestamp) :
    (s.sourceAsserts src t).groups = s.groups := by
  unfold State.sourceAsserts; split <;> simp [State.setCutoff]

@[simp] theorem State.sourceAsserts_supervisor (s : State) (src : CutSource) (t : Timestamp) :
    (s.sourceAsserts src t).supervisor = s.supervisor := by
  unfold State.sourceAsserts; split <;> simp [State.setCutoff]

@[simp] theorem State.sourceAsserts_label (s : State) (src : CutSource) (t : Timestamp) :
    (s.sourceAsserts src t).label = s.label := by
  unfold State.sourceAsserts; split <;> simp [State.setCutoff]

@[simp] theorem State.sourceAsserts_rights (s : State) (src : CutSource) (t : Timestamp) :
    (s.sourceAsserts src t).rights = s.rights := by
  unfold State.sourceAsserts; split <;> simp [State.setCutoff]

@[simp] theorem State.sourceAsserts_ports (s : State) (src : CutSource) (t : Timestamp) :
    (s.sourceAsserts src t).ports = s.ports := by
  unfold State.sourceAsserts; split <;> simp [State.setCutoff]

@[simp] theorem State.sourceAsserts_pending (s : State) (src : CutSource) (t : Timestamp) :
    (s.sourceAsserts src t).pending = s.pending := by
  unfold State.sourceAsserts; split <;> simp [State.setCutoff]

@[simp] theorem State.sourceAsserts_now (s : State) (src : CutSource) (t : Timestamp) :
    (s.sourceAsserts src t).now = s.now := by simp only [State.now, State.sourceAsserts_timebase]

@[simp] theorem State.sourceAsserts_attachment (s : State) (src : CutSource) (t : Timestamp) (k : Master) :
    (s.sourceAsserts src t).attachment k = s.attachment k := by
  simp only [State.attachment, State.port, State.sourceAsserts_ports]

/-! ### rearmCheck -/

@[simp] theorem State.rearmCheck_resetHeld (s : State) (t : Timestamp) :
    (s.rearmCheck t).resetHeld = s.resetHeld := by
  unfold State.rearmCheck; split_ifs <;> simp [State.setCutoff]

@[simp] theorem State.rearmCheck_capPins (s : State) (t : Timestamp) :
    (s.rearmCheck t).capPins = s.capPins := by
  unfold State.rearmCheck; split_ifs <;> simp [State.setCutoff]

@[simp] theorem State.rearmCheck_syncPin (s : State) (t : Timestamp) :
    (s.rearmCheck t).syncPin = s.syncPin := by
  unfold State.rearmCheck; split_ifs <;> simp [State.setCutoff]

@[simp] theorem State.rearmCheck_cutoffPin (s : State) (t : Timestamp) :
    (s.rearmCheck t).cutoffPin = s.cutoffPin := by
  unfold State.rearmCheck; split_ifs <;> simp [State.setCutoff]

@[simp] theorem State.rearmCheck_timebase (s : State) (t : Timestamp) :
    (s.rearmCheck t).timebase = s.timebase := by
  unfold State.rearmCheck; split_ifs <;> simp [State.setCutoff]

@[simp] theorem State.rearmCheck_captures (s : State) (t : Timestamp) :
    (s.rearmCheck t).captures = s.captures := by
  unfold State.rearmCheck; split_ifs <;> simp [State.setCutoff]

@[simp] theorem State.rearmCheck_groups (s : State) (t : Timestamp) :
    (s.rearmCheck t).groups = s.groups := by
  unfold State.rearmCheck; split_ifs <;> simp [State.setCutoff]

@[simp] theorem State.rearmCheck_actions (s : State) (t : Timestamp) :
    (s.rearmCheck t).actions = s.actions := by
  unfold State.rearmCheck; split_ifs <;> simp [State.setCutoff]

@[simp] theorem State.rearmCheck_lines (s : State) (t : Timestamp) :
    (s.rearmCheck t).lines = s.lines := by
  unfold State.rearmCheck; split_ifs <;> simp [State.setCutoff]

@[simp] theorem State.rearmCheck_pairs (s : State) (t : Timestamp) :
    (s.rearmCheck t).pairs = s.pairs := by
  unfold State.rearmCheck; split_ifs <;> simp [State.setCutoff]

@[simp] theorem State.rearmCheck_supervisor (s : State) (t : Timestamp) :
    (s.rearmCheck t).supervisor = s.supervisor := by
  unfold State.rearmCheck; split_ifs <;> simp [State.setCutoff]

@[simp] theorem State.rearmCheck_label (s : State) (t : Timestamp) :
    (s.rearmCheck t).label = s.label := by
  unfold State.rearmCheck; split_ifs <;> simp [State.setCutoff]

@[simp] theorem State.rearmCheck_rights (s : State) (t : Timestamp) :
    (s.rearmCheck t).rights = s.rights := by
  unfold State.rearmCheck; split_ifs <;> simp [State.setCutoff]

@[simp] theorem State.rearmCheck_ports (s : State) (t : Timestamp) :
    (s.rearmCheck t).ports = s.ports := by
  unfold State.rearmCheck; split_ifs <;> simp [State.setCutoff]

@[simp] theorem State.rearmCheck_arbiter (s : State) (t : Timestamp) :
    (s.rearmCheck t).arbiter = s.arbiter := by
  unfold State.rearmCheck; split_ifs <;> simp [State.setCutoff]

@[simp] theorem State.rearmCheck_pending (s : State) (t : Timestamp) :
    (s.rearmCheck t).pending = s.pending := by
  unfold State.rearmCheck; split_ifs <;> simp [State.setCutoff]

@[simp] theorem State.rearmCheck_now (s : State) (t : Timestamp) :
    (s.rearmCheck t).now = s.now := by simp only [State.now, State.rearmCheck_timebase]

@[simp] theorem State.rearmCheck_attachment (s : State) (t : Timestamp) (k : Master) :
    (s.rearmCheck t).attachment k = s.attachment k := by
  simp only [State.attachment, State.port, State.rearmCheck_ports]

/-! ### momentary -/

@[simp] theorem State.momentary_resetHeld (s : State) (src : CutSource) (t : Timestamp) :
    (s.momentary src t).resetHeld = s.resetHeld := by
  unfold State.momentary; simp

@[simp] theorem State.momentary_capPins (s : State) (src : CutSource) (t : Timestamp) :
    (s.momentary src t).capPins = s.capPins := by
  unfold State.momentary; simp

@[simp] theorem State.momentary_syncPin (s : State) (src : CutSource) (t : Timestamp) :
    (s.momentary src t).syncPin = s.syncPin := by
  unfold State.momentary; simp

@[simp] theorem State.momentary_cutoffPin (s : State) (src : CutSource) (t : Timestamp) :
    (s.momentary src t).cutoffPin = s.cutoffPin := by
  unfold State.momentary; simp

@[simp] theorem State.momentary_timebase (s : State) (src : CutSource) (t : Timestamp) :
    (s.momentary src t).timebase = s.timebase := by
  unfold State.momentary; simp

@[simp] theorem State.momentary_captures (s : State) (src : CutSource) (t : Timestamp) :
    (s.momentary src t).captures = s.captures := by
  unfold State.momentary; simp

@[simp] theorem State.momentary_groups (s : State) (src : CutSource) (t : Timestamp) :
    (s.momentary src t).groups = s.groups := by
  unfold State.momentary; simp

@[simp] theorem State.momentary_supervisor (s : State) (src : CutSource) (t : Timestamp) :
    (s.momentary src t).supervisor = s.supervisor := by
  unfold State.momentary; simp

@[simp] theorem State.momentary_label (s : State) (src : CutSource) (t : Timestamp) :
    (s.momentary src t).label = s.label := by
  unfold State.momentary; simp

@[simp] theorem State.momentary_rights (s : State) (src : CutSource) (t : Timestamp) :
    (s.momentary src t).rights = s.rights := by
  unfold State.momentary; simp

@[simp] theorem State.momentary_ports (s : State) (src : CutSource) (t : Timestamp) :
    (s.momentary src t).ports = s.ports := by
  unfold State.momentary; simp

@[simp] theorem State.momentary_pending (s : State) (src : CutSource) (t : Timestamp) :
    (s.momentary src t).pending = s.pending := by
  unfold State.momentary; simp

@[simp] theorem State.momentary_now (s : State) (src : CutSource) (t : Timestamp) :
    (s.momentary src t).now = s.now := by simp only [State.now, State.momentary_timebase]

@[simp] theorem State.momentary_attachment (s : State) (src : CutSource) (t : Timestamp) (k : Master) :
    (s.momentary src t).attachment k = s.attachment k := by
  simp only [State.attachment, State.port, State.momentary_ports]

/-! ### joinSource -/

@[simp] theorem State.joinSource_resetHeld (s : State) (src : CutSource) (t : Timestamp) :
    (s.joinSource src t).resetHeld = s.resetHeld := by
  unfold State.joinSource; simp [State.setCutoff]

@[simp] theorem State.joinSource_capPins (s : State) (src : CutSource) (t : Timestamp) :
    (s.joinSource src t).capPins = s.capPins := by
  unfold State.joinSource; simp [State.setCutoff]

@[simp] theorem State.joinSource_syncPin (s : State) (src : CutSource) (t : Timestamp) :
    (s.joinSource src t).syncPin = s.syncPin := by
  unfold State.joinSource; simp [State.setCutoff]

@[simp] theorem State.joinSource_cutoffPin (s : State) (src : CutSource) (t : Timestamp) :
    (s.joinSource src t).cutoffPin = s.cutoffPin := by
  unfold State.joinSource; simp [State.setCutoff]

@[simp] theorem State.joinSource_timebase (s : State) (src : CutSource) (t : Timestamp) :
    (s.joinSource src t).timebase = s.timebase := by
  unfold State.joinSource; simp [State.setCutoff]

@[simp] theorem State.joinSource_captures (s : State) (src : CutSource) (t : Timestamp) :
    (s.joinSource src t).captures = s.captures := by
  unfold State.joinSource; simp [State.setCutoff]

@[simp] theorem State.joinSource_groups (s : State) (src : CutSource) (t : Timestamp) :
    (s.joinSource src t).groups = s.groups := by
  unfold State.joinSource; simp [State.setCutoff]

@[simp] theorem State.joinSource_supervisor (s : State) (src : CutSource) (t : Timestamp) :
    (s.joinSource src t).supervisor = s.supervisor := by
  unfold State.joinSource; simp [State.setCutoff]

@[simp] theorem State.joinSource_label (s : State) (src : CutSource) (t : Timestamp) :
    (s.joinSource src t).label = s.label := by
  unfold State.joinSource; simp [State.setCutoff]

@[simp] theorem State.joinSource_rights (s : State) (src : CutSource) (t : Timestamp) :
    (s.joinSource src t).rights = s.rights := by
  unfold State.joinSource; simp [State.setCutoff]

@[simp] theorem State.joinSource_ports (s : State) (src : CutSource) (t : Timestamp) :
    (s.joinSource src t).ports = s.ports := by
  unfold State.joinSource; simp [State.setCutoff]

@[simp] theorem State.joinSource_pending (s : State) (src : CutSource) (t : Timestamp) :
    (s.joinSource src t).pending = s.pending := by
  unfold State.joinSource; simp [State.setCutoff]

@[simp] theorem State.joinSource_now (s : State) (src : CutSource) (t : Timestamp) :
    (s.joinSource src t).now = s.now := by simp only [State.now, State.joinSource_timebase]

@[simp] theorem State.joinSource_attachment (s : State) (src : CutSource) (t : Timestamp) (k : Master) :
    (s.joinSource src t).attachment k = s.attachment k := by
  simp only [State.attachment, State.port, State.joinSource_ports]

/-! ### leaveSource -/

@[simp] theorem State.leaveSource_resetHeld (s : State) (src : CutSource) (t : Timestamp) :
    (s.leaveSource src t).resetHeld = s.resetHeld := by
  unfold State.leaveSource; simp [State.setCutoff]

@[simp] theorem State.leaveSource_capPins (s : State) (src : CutSource) (t : Timestamp) :
    (s.leaveSource src t).capPins = s.capPins := by
  unfold State.leaveSource; simp [State.setCutoff]

@[simp] theorem State.leaveSource_syncPin (s : State) (src : CutSource) (t : Timestamp) :
    (s.leaveSource src t).syncPin = s.syncPin := by
  unfold State.leaveSource; simp [State.setCutoff]

@[simp] theorem State.leaveSource_cutoffPin (s : State) (src : CutSource) (t : Timestamp) :
    (s.leaveSource src t).cutoffPin = s.cutoffPin := by
  unfold State.leaveSource; simp [State.setCutoff]

@[simp] theorem State.leaveSource_timebase (s : State) (src : CutSource) (t : Timestamp) :
    (s.leaveSource src t).timebase = s.timebase := by
  unfold State.leaveSource; simp [State.setCutoff]

@[simp] theorem State.leaveSource_captures (s : State) (src : CutSource) (t : Timestamp) :
    (s.leaveSource src t).captures = s.captures := by
  unfold State.leaveSource; simp [State.setCutoff]

@[simp] theorem State.leaveSource_groups (s : State) (src : CutSource) (t : Timestamp) :
    (s.leaveSource src t).groups = s.groups := by
  unfold State.leaveSource; simp [State.setCutoff]

@[simp] theorem State.leaveSource_supervisor (s : State) (src : CutSource) (t : Timestamp) :
    (s.leaveSource src t).supervisor = s.supervisor := by
  unfold State.leaveSource; simp [State.setCutoff]

@[simp] theorem State.leaveSource_label (s : State) (src : CutSource) (t : Timestamp) :
    (s.leaveSource src t).label = s.label := by
  unfold State.leaveSource; simp [State.setCutoff]

@[simp] theorem State.leaveSource_rights (s : State) (src : CutSource) (t : Timestamp) :
    (s.leaveSource src t).rights = s.rights := by
  unfold State.leaveSource; simp [State.setCutoff]

@[simp] theorem State.leaveSource_ports (s : State) (src : CutSource) (t : Timestamp) :
    (s.leaveSource src t).ports = s.ports := by
  unfold State.leaveSource; simp [State.setCutoff]

@[simp] theorem State.leaveSource_pending (s : State) (src : CutSource) (t : Timestamp) :
    (s.leaveSource src t).pending = s.pending := by
  unfold State.leaveSource; simp [State.setCutoff]

@[simp] theorem State.leaveSource_now (s : State) (src : CutSource) (t : Timestamp) :
    (s.leaveSource src t).now = s.now := by simp only [State.now, State.leaveSource_timebase]

@[simp] theorem State.leaveSource_attachment (s : State) (src : CutSource) (t : Timestamp) (k : Master) :
    (s.leaveSource src t).attachment k = s.attachment k := by
  simp only [State.attachment, State.port, State.leaveSource_ports]

/-! ### pinChanged -/

@[simp] theorem State.pinChanged_resetHeld (s : State) (b : Bool) (t : Timestamp) :
    (s.pinChanged b t).resetHeld = s.resetHeld := by
  unfold State.pinChanged; split <;> simp

@[simp] theorem State.pinChanged_capPins (s : State) (b : Bool) (t : Timestamp) :
    (s.pinChanged b t).capPins = s.capPins := by
  unfold State.pinChanged; split <;> simp

@[simp] theorem State.pinChanged_syncPin (s : State) (b : Bool) (t : Timestamp) :
    (s.pinChanged b t).syncPin = s.syncPin := by
  unfold State.pinChanged; split <;> simp

@[simp] theorem State.pinChanged_cutoffPin (s : State) (b : Bool) (t : Timestamp) :
    (s.pinChanged b t).cutoffPin = s.cutoffPin := by
  unfold State.pinChanged; split <;> simp

@[simp] theorem State.pinChanged_timebase (s : State) (b : Bool) (t : Timestamp) :
    (s.pinChanged b t).timebase = s.timebase := by
  unfold State.pinChanged; split <;> simp

@[simp] theorem State.pinChanged_captures (s : State) (b : Bool) (t : Timestamp) :
    (s.pinChanged b t).captures = s.captures := by
  unfold State.pinChanged; split <;> simp

@[simp] theorem State.pinChanged_groups (s : State) (b : Bool) (t : Timestamp) :
    (s.pinChanged b t).groups = s.groups := by
  unfold State.pinChanged; split <;> simp

@[simp] theorem State.pinChanged_supervisor (s : State) (b : Bool) (t : Timestamp) :
    (s.pinChanged b t).supervisor = s.supervisor := by
  unfold State.pinChanged; split <;> simp

@[simp] theorem State.pinChanged_label (s : State) (b : Bool) (t : Timestamp) :
    (s.pinChanged b t).label = s.label := by
  unfold State.pinChanged; split <;> simp

@[simp] theorem State.pinChanged_rights (s : State) (b : Bool) (t : Timestamp) :
    (s.pinChanged b t).rights = s.rights := by
  unfold State.pinChanged; split <;> simp

@[simp] theorem State.pinChanged_ports (s : State) (b : Bool) (t : Timestamp) :
    (s.pinChanged b t).ports = s.ports := by
  unfold State.pinChanged; split <;> simp

@[simp] theorem State.pinChanged_pending (s : State) (b : Bool) (t : Timestamp) :
    (s.pinChanged b t).pending = s.pending := by
  unfold State.pinChanged; split <;> simp

@[simp] theorem State.pinChanged_now (s : State) (b : Bool) (t : Timestamp) :
    (s.pinChanged b t).now = s.now := by simp only [State.now, State.pinChanged_timebase]

@[simp] theorem State.pinChanged_attachment (s : State) (b : Bool) (t : Timestamp) (k : Master) :
    (s.pinChanged b t).attachment k = s.attachment k := by
  simp only [State.attachment, State.port, State.pinChanged_ports]

/-! ### eventAtEntry -/

@[simp] theorem State.eventAtEntry_resetHeld (s : State) (n : CapLine) (t : Timestamp) (v : CaptureEvent) :
    (s.eventAtEntry n t v).resetHeld = s.resetHeld := by
  cases v <;> simp [State.eventAtEntry]

@[simp] theorem State.eventAtEntry_capPins (s : State) (n : CapLine) (t : Timestamp) (v : CaptureEvent) :
    (s.eventAtEntry n t v).capPins = s.capPins := by
  cases v <;> simp [State.eventAtEntry]

@[simp] theorem State.eventAtEntry_syncPin (s : State) (n : CapLine) (t : Timestamp) (v : CaptureEvent) :
    (s.eventAtEntry n t v).syncPin = s.syncPin := by
  cases v <;> simp [State.eventAtEntry]

@[simp] theorem State.eventAtEntry_cutoffPin (s : State) (n : CapLine) (t : Timestamp) (v : CaptureEvent) :
    (s.eventAtEntry n t v).cutoffPin = s.cutoffPin := by
  cases v <;> simp [State.eventAtEntry]

@[simp] theorem State.eventAtEntry_timebase (s : State) (n : CapLine) (t : Timestamp) (v : CaptureEvent) :
    (s.eventAtEntry n t v).timebase = s.timebase := by
  cases v <;> simp [State.eventAtEntry]

@[simp] theorem State.eventAtEntry_captures (s : State) (n : CapLine) (t : Timestamp) (v : CaptureEvent) :
    (s.eventAtEntry n t v).captures = s.captures := by
  cases v <;> simp [State.eventAtEntry]

@[simp] theorem State.eventAtEntry_groups (s : State) (n : CapLine) (t : Timestamp) (v : CaptureEvent) :
    (s.eventAtEntry n t v).groups = s.groups := by
  cases v <;> simp [State.eventAtEntry]

@[simp] theorem State.eventAtEntry_actions (s : State) (n : CapLine) (t : Timestamp) (v : CaptureEvent) :
    (s.eventAtEntry n t v).actions = s.actions := by
  cases v <;> simp [State.eventAtEntry]

@[simp] theorem State.eventAtEntry_lines (s : State) (n : CapLine) (t : Timestamp) (v : CaptureEvent) :
    (s.eventAtEntry n t v).lines = s.lines := by
  cases v <;> simp [State.eventAtEntry]

@[simp] theorem State.eventAtEntry_pairs (s : State) (n : CapLine) (t : Timestamp) (v : CaptureEvent) :
    (s.eventAtEntry n t v).pairs = s.pairs := by
  cases v <;> simp [State.eventAtEntry]

@[simp] theorem State.eventAtEntry_cutoff (s : State) (n : CapLine) (t : Timestamp) (v : CaptureEvent) :
    (s.eventAtEntry n t v).cutoff = s.cutoff := by
  cases v <;> simp [State.eventAtEntry]

@[simp] theorem State.eventAtEntry_supervisor (s : State) (n : CapLine) (t : Timestamp) (v : CaptureEvent) :
    (s.eventAtEntry n t v).supervisor = s.supervisor := by
  cases v <;> simp [State.eventAtEntry]

@[simp] theorem State.eventAtEntry_label (s : State) (n : CapLine) (t : Timestamp) (v : CaptureEvent) :
    (s.eventAtEntry n t v).label = s.label := by
  cases v <;> simp [State.eventAtEntry]

@[simp] theorem State.eventAtEntry_rights (s : State) (n : CapLine) (t : Timestamp) (v : CaptureEvent) :
    (s.eventAtEntry n t v).rights = s.rights := by
  cases v <;> simp [State.eventAtEntry]

@[simp] theorem State.eventAtEntry_ports (s : State) (n : CapLine) (t : Timestamp) (v : CaptureEvent) :
    (s.eventAtEntry n t v).ports = s.ports := by
  cases v <;> simp [State.eventAtEntry]

@[simp] theorem State.eventAtEntry_arbiter (s : State) (n : CapLine) (t : Timestamp) (v : CaptureEvent) :
    (s.eventAtEntry n t v).arbiter = s.arbiter := by
  cases v <;> simp [State.eventAtEntry]

@[simp] theorem State.eventAtEntry_pending (s : State) (n : CapLine) (t : Timestamp) (v : CaptureEvent) :
    (s.eventAtEntry n t v).pending = s.pending := by
  cases v <;> simp [State.eventAtEntry]

@[simp] theorem State.eventAtEntry_now (s : State) (n : CapLine) (t : Timestamp) (v : CaptureEvent) :
    (s.eventAtEntry n t v).now = s.now := by simp only [State.now, State.eventAtEntry_timebase]

@[simp] theorem State.eventAtEntry_attachment (s : State) (n : CapLine) (t : Timestamp) (v : CaptureEvent) (k : Master) :
    (s.eventAtEntry n t v).attachment k = s.attachment k := by
  simp only [State.attachment, State.port, State.eventAtEntry_ports]

/-! ### eventAtCutoff -/

@[simp] theorem State.eventAtCutoff_resetHeld (s : State) (n : CapLine) (t : Timestamp) (v : CaptureEvent) :
    (s.eventAtCutoff n t v).resetHeld = s.resetHeld := by
  cases v <;> simp [State.eventAtCutoff]

@[simp] theorem State.eventAtCutoff_capPins (s : State) (n : CapLine) (t : Timestamp) (v : CaptureEvent) :
    (s.eventAtCutoff n t v).capPins = s.capPins := by
  cases v <;> simp [State.eventAtCutoff]

@[simp] theorem State.eventAtCutoff_syncPin (s : State) (n : CapLine) (t : Timestamp) (v : CaptureEvent) :
    (s.eventAtCutoff n t v).syncPin = s.syncPin := by
  cases v <;> simp [State.eventAtCutoff]

@[simp] theorem State.eventAtCutoff_cutoffPin (s : State) (n : CapLine) (t : Timestamp) (v : CaptureEvent) :
    (s.eventAtCutoff n t v).cutoffPin = s.cutoffPin := by
  cases v <;> simp [State.eventAtCutoff]

@[simp] theorem State.eventAtCutoff_timebase (s : State) (n : CapLine) (t : Timestamp) (v : CaptureEvent) :
    (s.eventAtCutoff n t v).timebase = s.timebase := by
  cases v <;> simp [State.eventAtCutoff]

@[simp] theorem State.eventAtCutoff_captures (s : State) (n : CapLine) (t : Timestamp) (v : CaptureEvent) :
    (s.eventAtCutoff n t v).captures = s.captures := by
  cases v <;> simp [State.eventAtCutoff]

@[simp] theorem State.eventAtCutoff_groups (s : State) (n : CapLine) (t : Timestamp) (v : CaptureEvent) :
    (s.eventAtCutoff n t v).groups = s.groups := by
  cases v <;> simp [State.eventAtCutoff]

@[simp] theorem State.eventAtCutoff_supervisor (s : State) (n : CapLine) (t : Timestamp) (v : CaptureEvent) :
    (s.eventAtCutoff n t v).supervisor = s.supervisor := by
  cases v <;> simp [State.eventAtCutoff]

@[simp] theorem State.eventAtCutoff_label (s : State) (n : CapLine) (t : Timestamp) (v : CaptureEvent) :
    (s.eventAtCutoff n t v).label = s.label := by
  cases v <;> simp [State.eventAtCutoff]

@[simp] theorem State.eventAtCutoff_rights (s : State) (n : CapLine) (t : Timestamp) (v : CaptureEvent) :
    (s.eventAtCutoff n t v).rights = s.rights := by
  cases v <;> simp [State.eventAtCutoff]

@[simp] theorem State.eventAtCutoff_ports (s : State) (n : CapLine) (t : Timestamp) (v : CaptureEvent) :
    (s.eventAtCutoff n t v).ports = s.ports := by
  cases v <;> simp [State.eventAtCutoff]

@[simp] theorem State.eventAtCutoff_pending (s : State) (n : CapLine) (t : Timestamp) (v : CaptureEvent) :
    (s.eventAtCutoff n t v).pending = s.pending := by
  cases v <;> simp [State.eventAtCutoff]

@[simp] theorem State.eventAtCutoff_now (s : State) (n : CapLine) (t : Timestamp) (v : CaptureEvent) :
    (s.eventAtCutoff n t v).now = s.now := by simp only [State.now, State.eventAtCutoff_timebase]

@[simp] theorem State.eventAtCutoff_attachment (s : State) (n : CapLine) (t : Timestamp) (v : CaptureEvent) (k : Master) :
    (s.eventAtCutoff n t v).attachment k = s.attachment k := by
  simp only [State.attachment, State.port, State.eventAtCutoff_ports]

/-! ### resync -/

@[simp] theorem State.resync_resetHeld (s : State) :
    (s.resync).resetHeld = s.resetHeld := by
  unfold State.resync; simp [State.setTimebase]

@[simp] theorem State.resync_capPins (s : State) :
    (s.resync).capPins = s.capPins := by
  unfold State.resync; simp [State.setTimebase]

@[simp] theorem State.resync_syncPin (s : State) :
    (s.resync).syncPin = s.syncPin := by
  unfold State.resync; simp [State.setTimebase]

@[simp] theorem State.resync_cutoffPin (s : State) :
    (s.resync).cutoffPin = s.cutoffPin := by
  unfold State.resync; simp [State.setTimebase]

@[simp] theorem State.resync_captures (s : State) :
    (s.resync).captures = s.captures := by
  unfold State.resync; simp [State.setTimebase]

@[simp] theorem State.resync_groups (s : State) :
    (s.resync).groups = s.groups := by
  unfold State.resync; simp [State.setTimebase]

@[simp] theorem State.resync_lines (s : State) :
    (s.resync).lines = s.lines := by
  unfold State.resync; simp [State.setTimebase]

@[simp] theorem State.resync_pairs (s : State) :
    (s.resync).pairs = s.pairs := by
  unfold State.resync; simp [State.setTimebase]

@[simp] theorem State.resync_cutoff (s : State) :
    (s.resync).cutoff = s.cutoff := by
  unfold State.resync; simp [State.setTimebase]

@[simp] theorem State.resync_supervisor (s : State) :
    (s.resync).supervisor = s.supervisor := by
  unfold State.resync; simp [State.setTimebase]

@[simp] theorem State.resync_label (s : State) :
    (s.resync).label = s.label := by
  unfold State.resync; simp [State.setTimebase]

@[simp] theorem State.resync_rights (s : State) :
    (s.resync).rights = s.rights := by
  unfold State.resync; simp [State.setTimebase]

@[simp] theorem State.resync_ports (s : State) :
    (s.resync).ports = s.ports := by
  unfold State.resync; simp [State.setTimebase]

@[simp] theorem State.resync_arbiter (s : State) :
    (s.resync).arbiter = s.arbiter := by
  unfold State.resync; simp [State.setTimebase]

@[simp] theorem State.resync_pending (s : State) :
    (s.resync).pending = s.pending := by
  unfold State.resync; simp [State.setTimebase]

@[simp] theorem State.resync_attachment (s : State) (k : Master) :
    (s.resync).attachment k = s.attachment k := by
  simp only [State.attachment, State.port, State.resync_ports]

/-! ### attachedReactions -/

@[simp] theorem State.attachedReactions_resetHeld (s : State) (m : Master) (t : Timestamp) :
    (s.attachedReactions m t).resetHeld = s.resetHeld := by
  unfold State.attachedReactions
  refine State.inAnyOrder_field State.resetHeld (fun _ => rfl) ?_
  intro g hg u
  simp only [List.mem_append, List.mem_map, List.mem_singleton] at hg
  rcases hg with ⟨e, -, rfl⟩ | rfl <;> simp

@[simp] theorem State.attachedReactions_capPins (s : State) (m : Master) (t : Timestamp) :
    (s.attachedReactions m t).capPins = s.capPins := by
  unfold State.attachedReactions
  refine State.inAnyOrder_field State.capPins (fun _ => rfl) ?_
  intro g hg u
  simp only [List.mem_append, List.mem_map, List.mem_singleton] at hg
  rcases hg with ⟨e, -, rfl⟩ | rfl <;> simp

@[simp] theorem State.attachedReactions_syncPin (s : State) (m : Master) (t : Timestamp) :
    (s.attachedReactions m t).syncPin = s.syncPin := by
  unfold State.attachedReactions
  refine State.inAnyOrder_field State.syncPin (fun _ => rfl) ?_
  intro g hg u
  simp only [List.mem_append, List.mem_map, List.mem_singleton] at hg
  rcases hg with ⟨e, -, rfl⟩ | rfl <;> simp

@[simp] theorem State.attachedReactions_cutoffPin (s : State) (m : Master) (t : Timestamp) :
    (s.attachedReactions m t).cutoffPin = s.cutoffPin := by
  unfold State.attachedReactions
  refine State.inAnyOrder_field State.cutoffPin (fun _ => rfl) ?_
  intro g hg u
  simp only [List.mem_append, List.mem_map, List.mem_singleton] at hg
  rcases hg with ⟨e, -, rfl⟩ | rfl <;> simp

@[simp] theorem State.attachedReactions_timebase (s : State) (m : Master) (t : Timestamp) :
    (s.attachedReactions m t).timebase = s.timebase := by
  unfold State.attachedReactions
  refine State.inAnyOrder_field State.timebase (fun _ => rfl) ?_
  intro g hg u
  simp only [List.mem_append, List.mem_map, List.mem_singleton] at hg
  rcases hg with ⟨e, -, rfl⟩ | rfl <;> simp

@[simp] theorem State.attachedReactions_captures (s : State) (m : Master) (t : Timestamp) :
    (s.attachedReactions m t).captures = s.captures := by
  unfold State.attachedReactions
  refine State.inAnyOrder_field State.captures (fun _ => rfl) ?_
  intro g hg u
  simp only [List.mem_append, List.mem_map, List.mem_singleton] at hg
  rcases hg with ⟨e, -, rfl⟩ | rfl <;> simp

@[simp] theorem State.attachedReactions_groups (s : State) (m : Master) (t : Timestamp) :
    (s.attachedReactions m t).groups = s.groups := by
  unfold State.attachedReactions
  refine State.inAnyOrder_field State.groups (fun _ => rfl) ?_
  intro g hg u
  simp only [List.mem_append, List.mem_map, List.mem_singleton] at hg
  rcases hg with ⟨e, -, rfl⟩ | rfl <;> simp

@[simp] theorem State.attachedReactions_actions (s : State) (m : Master) (t : Timestamp) :
    (s.attachedReactions m t).actions = s.actions := by
  unfold State.attachedReactions
  refine State.inAnyOrder_field State.actions (fun _ => rfl) ?_
  intro g hg u
  simp only [List.mem_append, List.mem_map, List.mem_singleton] at hg
  rcases hg with ⟨e, -, rfl⟩ | rfl <;> simp

@[simp] theorem State.attachedReactions_lines (s : State) (m : Master) (t : Timestamp) :
    (s.attachedReactions m t).lines = s.lines := by
  unfold State.attachedReactions
  refine State.inAnyOrder_field State.lines (fun _ => rfl) ?_
  intro g hg u
  simp only [List.mem_append, List.mem_map, List.mem_singleton] at hg
  rcases hg with ⟨e, -, rfl⟩ | rfl <;> simp

@[simp] theorem State.attachedReactions_pairs (s : State) (m : Master) (t : Timestamp) :
    (s.attachedReactions m t).pairs = s.pairs := by
  unfold State.attachedReactions
  refine State.inAnyOrder_field State.pairs (fun _ => rfl) ?_
  intro g hg u
  simp only [List.mem_append, List.mem_map, List.mem_singleton] at hg
  rcases hg with ⟨e, -, rfl⟩ | rfl <;> simp

@[simp] theorem State.attachedReactions_cutoff (s : State) (m : Master) (t : Timestamp) :
    (s.attachedReactions m t).cutoff = s.cutoff := by
  unfold State.attachedReactions
  refine State.inAnyOrder_field State.cutoff (fun _ => rfl) ?_
  intro g hg u
  simp only [List.mem_append, List.mem_map, List.mem_singleton] at hg
  rcases hg with ⟨e, -, rfl⟩ | rfl <;> simp

@[simp] theorem State.attachedReactions_supervisor (s : State) (m : Master) (t : Timestamp) :
    (s.attachedReactions m t).supervisor = s.supervisor := by
  unfold State.attachedReactions
  refine State.inAnyOrder_field State.supervisor (fun _ => rfl) ?_
  intro g hg u
  simp only [List.mem_append, List.mem_map, List.mem_singleton] at hg
  rcases hg with ⟨e, -, rfl⟩ | rfl <;> simp

@[simp] theorem State.attachedReactions_label (s : State) (m : Master) (t : Timestamp) :
    (s.attachedReactions m t).label = s.label := by
  unfold State.attachedReactions
  refine State.inAnyOrder_field State.label (fun _ => rfl) ?_
  intro g hg u
  simp only [List.mem_append, List.mem_map, List.mem_singleton] at hg
  rcases hg with ⟨e, -, rfl⟩ | rfl <;> simp

@[simp] theorem State.attachedReactions_rights (s : State) (m : Master) (t : Timestamp) :
    (s.attachedReactions m t).rights = s.rights := by
  unfold State.attachedReactions
  refine State.inAnyOrder_field State.rights (fun _ => rfl) ?_
  intro g hg u
  simp only [List.mem_append, List.mem_map, List.mem_singleton] at hg
  rcases hg with ⟨e, -, rfl⟩ | rfl <;> simp

@[simp] theorem State.attachedReactions_ports (s : State) (m : Master) (t : Timestamp) :
    (s.attachedReactions m t).ports = s.ports := by
  unfold State.attachedReactions
  refine State.inAnyOrder_field State.ports (fun _ => rfl) ?_
  intro g hg u
  simp only [List.mem_append, List.mem_map, List.mem_singleton] at hg
  rcases hg with ⟨e, -, rfl⟩ | rfl <;> simp

@[simp] theorem State.attachedReactions_pending (s : State) (m : Master) (t : Timestamp) :
    (s.attachedReactions m t).pending = s.pending := by
  unfold State.attachedReactions
  refine State.inAnyOrder_field State.pending (fun _ => rfl) ?_
  intro g hg u
  simp only [List.mem_append, List.mem_map, List.mem_singleton] at hg
  rcases hg with ⟨e, -, rfl⟩ | rfl <;> simp

@[simp] theorem State.attachedReactions_now (s : State) (m : Master) (t : Timestamp) :
    (s.attachedReactions m t).now = s.now := by simp only [State.now, State.attachedReactions_timebase]

@[simp] theorem State.attachedReactions_attachment (s : State) (m : Master) (t : Timestamp) (k : Master) :
    (s.attachedReactions m t).attachment k = s.attachment k := by
  simp only [State.attachment, State.port, State.attachedReactions_ports]

/-! ### statusAfterLoad -/

@[simp] theorem State.statusAfterLoad_resetHeld (s : State) (n : CapLine) :
    (s.statusAfterLoad n).resetHeld = s.resetHeld := by
  unfold State.statusAfterLoad; split_ifs <;> simp

@[simp] theorem State.statusAfterLoad_capPins (s : State) (n : CapLine) :
    (s.statusAfterLoad n).capPins = s.capPins := by
  unfold State.statusAfterLoad; split_ifs <;> simp

@[simp] theorem State.statusAfterLoad_syncPin (s : State) (n : CapLine) :
    (s.statusAfterLoad n).syncPin = s.syncPin := by
  unfold State.statusAfterLoad; split_ifs <;> simp

@[simp] theorem State.statusAfterLoad_cutoffPin (s : State) (n : CapLine) :
    (s.statusAfterLoad n).cutoffPin = s.cutoffPin := by
  unfold State.statusAfterLoad; split_ifs <;> simp

@[simp] theorem State.statusAfterLoad_timebase (s : State) (n : CapLine) :
    (s.statusAfterLoad n).timebase = s.timebase := by
  unfold State.statusAfterLoad; split_ifs <;> simp

@[simp] theorem State.statusAfterLoad_captures (s : State) (n : CapLine) :
    (s.statusAfterLoad n).captures = s.captures := by
  unfold State.statusAfterLoad; split_ifs <;> simp

@[simp] theorem State.statusAfterLoad_groups (s : State) (n : CapLine) :
    (s.statusAfterLoad n).groups = s.groups := by
  unfold State.statusAfterLoad; split_ifs <;> simp

@[simp] theorem State.statusAfterLoad_queues (s : State) (n : CapLine) :
    (s.statusAfterLoad n).queues = s.queues := by
  unfold State.statusAfterLoad; split_ifs <;> simp

@[simp] theorem State.statusAfterLoad_actions (s : State) (n : CapLine) :
    (s.statusAfterLoad n).actions = s.actions := by
  unfold State.statusAfterLoad; split_ifs <;> simp

@[simp] theorem State.statusAfterLoad_lines (s : State) (n : CapLine) :
    (s.statusAfterLoad n).lines = s.lines := by
  unfold State.statusAfterLoad; split_ifs <;> simp

@[simp] theorem State.statusAfterLoad_pairs (s : State) (n : CapLine) :
    (s.statusAfterLoad n).pairs = s.pairs := by
  unfold State.statusAfterLoad; split_ifs <;> simp

@[simp] theorem State.statusAfterLoad_cutoff (s : State) (n : CapLine) :
    (s.statusAfterLoad n).cutoff = s.cutoff := by
  unfold State.statusAfterLoad; split_ifs <;> simp

@[simp] theorem State.statusAfterLoad_supervisor (s : State) (n : CapLine) :
    (s.statusAfterLoad n).supervisor = s.supervisor := by
  unfold State.statusAfterLoad; split_ifs <;> simp

@[simp] theorem State.statusAfterLoad_label (s : State) (n : CapLine) :
    (s.statusAfterLoad n).label = s.label := by
  unfold State.statusAfterLoad; split_ifs <;> simp

@[simp] theorem State.statusAfterLoad_rights (s : State) (n : CapLine) :
    (s.statusAfterLoad n).rights = s.rights := by
  unfold State.statusAfterLoad; split_ifs <;> simp

@[simp] theorem State.statusAfterLoad_ports (s : State) (n : CapLine) :
    (s.statusAfterLoad n).ports = s.ports := by
  unfold State.statusAfterLoad; split_ifs <;> simp

@[simp] theorem State.statusAfterLoad_arbiter (s : State) (n : CapLine) :
    (s.statusAfterLoad n).arbiter = s.arbiter := by
  unfold State.statusAfterLoad; split_ifs <;> simp

@[simp] theorem State.statusAfterLoad_pending (s : State) (n : CapLine) :
    (s.statusAfterLoad n).pending = s.pending := by
  unfold State.statusAfterLoad; split_ifs <;> simp

@[simp] theorem State.statusAfterLoad_now (s : State) (n : CapLine) :
    (s.statusAfterLoad n).now = s.now := by simp only [State.now, State.statusAfterLoad_timebase]

@[simp] theorem State.statusAfterLoad_attachment (s : State) (n : CapLine) (k : Master) :
    (s.statusAfterLoad n).attachment k = s.attachment k := by
  simp only [State.attachment, State.port, State.statusAfterLoad_ports]

theorem State.eventHandOffs_resetHeld (s : State) {n : CapLine} {t : Timestamp} {v : CaptureEvent} {g : State → State}
    (hg : g ∈ s.eventHandOffs n t v) (u : State) : (g u).resetHeld = u.resetHeld := by
  unfold State.eventHandOffs at hg
  rcases List.mem_append.mp hg with hg | hg
  · rw [List.mem_singleton.mp hg]; simp
  · split at hg
    · rw [List.mem_singleton.mp hg]; simp
    · simp at hg

theorem State.eventHandOffs_capPins (s : State) {n : CapLine} {t : Timestamp} {v : CaptureEvent} {g : State → State}
    (hg : g ∈ s.eventHandOffs n t v) (u : State) : (g u).capPins = u.capPins := by
  unfold State.eventHandOffs at hg
  rcases List.mem_append.mp hg with hg | hg
  · rw [List.mem_singleton.mp hg]; simp
  · split at hg
    · rw [List.mem_singleton.mp hg]; simp
    · simp at hg

theorem State.eventHandOffs_syncPin (s : State) {n : CapLine} {t : Timestamp} {v : CaptureEvent} {g : State → State}
    (hg : g ∈ s.eventHandOffs n t v) (u : State) : (g u).syncPin = u.syncPin := by
  unfold State.eventHandOffs at hg
  rcases List.mem_append.mp hg with hg | hg
  · rw [List.mem_singleton.mp hg]; simp
  · split at hg
    · rw [List.mem_singleton.mp hg]; simp
    · simp at hg

theorem State.eventHandOffs_cutoffPin (s : State) {n : CapLine} {t : Timestamp} {v : CaptureEvent} {g : State → State}
    (hg : g ∈ s.eventHandOffs n t v) (u : State) : (g u).cutoffPin = u.cutoffPin := by
  unfold State.eventHandOffs at hg
  rcases List.mem_append.mp hg with hg | hg
  · rw [List.mem_singleton.mp hg]; simp
  · split at hg
    · rw [List.mem_singleton.mp hg]; simp
    · simp at hg

theorem State.eventHandOffs_timebase (s : State) {n : CapLine} {t : Timestamp} {v : CaptureEvent} {g : State → State}
    (hg : g ∈ s.eventHandOffs n t v) (u : State) : (g u).timebase = u.timebase := by
  unfold State.eventHandOffs at hg
  rcases List.mem_append.mp hg with hg | hg
  · rw [List.mem_singleton.mp hg]; simp
  · split at hg
    · rw [List.mem_singleton.mp hg]; simp
    · simp at hg

theorem State.eventHandOffs_groups (s : State) {n : CapLine} {t : Timestamp} {v : CaptureEvent} {g : State → State}
    (hg : g ∈ s.eventHandOffs n t v) (u : State) : (g u).groups = u.groups := by
  unfold State.eventHandOffs at hg
  rcases List.mem_append.mp hg with hg | hg
  · rw [List.mem_singleton.mp hg]; simp
  · split at hg
    · rw [List.mem_singleton.mp hg]; simp
    · simp at hg

theorem State.eventHandOffs_supervisor (s : State) {n : CapLine} {t : Timestamp} {v : CaptureEvent} {g : State → State}
    (hg : g ∈ s.eventHandOffs n t v) (u : State) : (g u).supervisor = u.supervisor := by
  unfold State.eventHandOffs at hg
  rcases List.mem_append.mp hg with hg | hg
  · rw [List.mem_singleton.mp hg]; simp
  · split at hg
    · rw [List.mem_singleton.mp hg]; simp
    · simp at hg

theorem State.eventHandOffs_label (s : State) {n : CapLine} {t : Timestamp} {v : CaptureEvent} {g : State → State}
    (hg : g ∈ s.eventHandOffs n t v) (u : State) : (g u).label = u.label := by
  unfold State.eventHandOffs at hg
  rcases List.mem_append.mp hg with hg | hg
  · rw [List.mem_singleton.mp hg]; simp
  · split at hg
    · rw [List.mem_singleton.mp hg]; simp
    · simp at hg

theorem State.eventHandOffs_rights (s : State) {n : CapLine} {t : Timestamp} {v : CaptureEvent} {g : State → State}
    (hg : g ∈ s.eventHandOffs n t v) (u : State) : (g u).rights = u.rights := by
  unfold State.eventHandOffs at hg
  rcases List.mem_append.mp hg with hg | hg
  · rw [List.mem_singleton.mp hg]; simp
  · split at hg
    · rw [List.mem_singleton.mp hg]; simp
    · simp at hg

theorem State.eventHandOffs_ports (s : State) {n : CapLine} {t : Timestamp} {v : CaptureEvent} {g : State → State}
    (hg : g ∈ s.eventHandOffs n t v) (u : State) : (g u).ports = u.ports := by
  unfold State.eventHandOffs at hg
  rcases List.mem_append.mp hg with hg | hg
  · rw [List.mem_singleton.mp hg]; simp
  · split at hg
    · rw [List.mem_singleton.mp hg]; simp
    · simp at hg

theorem State.eventHandOffs_pending (s : State) {n : CapLine} {t : Timestamp} {v : CaptureEvent} {g : State → State}
    (hg : g ∈ s.eventHandOffs n t v) (u : State) : (g u).pending = u.pending := by
  unfold State.eventHandOffs at hg
  rcases List.mem_append.mp hg with hg | hg
  · rw [List.mem_singleton.mp hg]; simp
  · split at hg
    · rw [List.mem_singleton.mp hg]; simp
    · simp at hg

theorem State.groupHandOffs_resetHeld (s : State) {n : CapLine} {t : Timestamp} {g : State → State}
    (hg : g ∈ s.groupHandOffs n t) (u : State) : (g u).resetHeld = u.resetHeld := by
  obtain ⟨k, -, rfl⟩ := List.mem_map.mp hg
  simp

theorem State.groupHandOffs_capPins (s : State) {n : CapLine} {t : Timestamp} {g : State → State}
    (hg : g ∈ s.groupHandOffs n t) (u : State) : (g u).capPins = u.capPins := by
  obtain ⟨k, -, rfl⟩ := List.mem_map.mp hg
  simp

theorem State.groupHandOffs_syncPin (s : State) {n : CapLine} {t : Timestamp} {g : State → State}
    (hg : g ∈ s.groupHandOffs n t) (u : State) : (g u).syncPin = u.syncPin := by
  obtain ⟨k, -, rfl⟩ := List.mem_map.mp hg
  simp

theorem State.groupHandOffs_cutoffPin (s : State) {n : CapLine} {t : Timestamp} {g : State → State}
    (hg : g ∈ s.groupHandOffs n t) (u : State) : (g u).cutoffPin = u.cutoffPin := by
  obtain ⟨k, -, rfl⟩ := List.mem_map.mp hg
  simp

theorem State.groupHandOffs_timebase (s : State) {n : CapLine} {t : Timestamp} {g : State → State}
    (hg : g ∈ s.groupHandOffs n t) (u : State) : (g u).timebase = u.timebase := by
  obtain ⟨k, -, rfl⟩ := List.mem_map.mp hg
  simp

theorem State.groupHandOffs_captures (s : State) {n : CapLine} {t : Timestamp} {g : State → State}
    (hg : g ∈ s.groupHandOffs n t) (u : State) : (g u).captures = u.captures := by
  obtain ⟨k, -, rfl⟩ := List.mem_map.mp hg
  simp

theorem State.groupHandOffs_groups (s : State) {n : CapLine} {t : Timestamp} {g : State → State}
    (hg : g ∈ s.groupHandOffs n t) (u : State) : (g u).groups = u.groups := by
  obtain ⟨k, -, rfl⟩ := List.mem_map.mp hg
  simp

theorem State.groupHandOffs_actions (s : State) {n : CapLine} {t : Timestamp} {g : State → State}
    (hg : g ∈ s.groupHandOffs n t) (u : State) : (g u).actions = u.actions := by
  obtain ⟨k, -, rfl⟩ := List.mem_map.mp hg
  simp

theorem State.groupHandOffs_lines (s : State) {n : CapLine} {t : Timestamp} {g : State → State}
    (hg : g ∈ s.groupHandOffs n t) (u : State) : (g u).lines = u.lines := by
  obtain ⟨k, -, rfl⟩ := List.mem_map.mp hg
  simp

theorem State.groupHandOffs_pairs (s : State) {n : CapLine} {t : Timestamp} {g : State → State}
    (hg : g ∈ s.groupHandOffs n t) (u : State) : (g u).pairs = u.pairs := by
  obtain ⟨k, -, rfl⟩ := List.mem_map.mp hg
  simp

theorem State.groupHandOffs_cutoff (s : State) {n : CapLine} {t : Timestamp} {g : State → State}
    (hg : g ∈ s.groupHandOffs n t) (u : State) : (g u).cutoff = u.cutoff := by
  obtain ⟨k, -, rfl⟩ := List.mem_map.mp hg
  simp

theorem State.groupHandOffs_supervisor (s : State) {n : CapLine} {t : Timestamp} {g : State → State}
    (hg : g ∈ s.groupHandOffs n t) (u : State) : (g u).supervisor = u.supervisor := by
  obtain ⟨k, -, rfl⟩ := List.mem_map.mp hg
  simp

theorem State.groupHandOffs_label (s : State) {n : CapLine} {t : Timestamp} {g : State → State}
    (hg : g ∈ s.groupHandOffs n t) (u : State) : (g u).label = u.label := by
  obtain ⟨k, -, rfl⟩ := List.mem_map.mp hg
  simp

theorem State.groupHandOffs_rights (s : State) {n : CapLine} {t : Timestamp} {g : State → State}
    (hg : g ∈ s.groupHandOffs n t) (u : State) : (g u).rights = u.rights := by
  obtain ⟨k, -, rfl⟩ := List.mem_map.mp hg
  simp

theorem State.groupHandOffs_ports (s : State) {n : CapLine} {t : Timestamp} {g : State → State}
    (hg : g ∈ s.groupHandOffs n t) (u : State) : (g u).ports = u.ports := by
  obtain ⟨k, -, rfl⟩ := List.mem_map.mp hg
  simp

theorem State.groupHandOffs_arbiter (s : State) {n : CapLine} {t : Timestamp} {g : State → State}
    (hg : g ∈ s.groupHandOffs n t) (u : State) : (g u).arbiter = u.arbiter := by
  obtain ⟨k, -, rfl⟩ := List.mem_map.mp hg
  simp

theorem State.groupHandOffs_pending (s : State) {n : CapLine} {t : Timestamp} {g : State → State}
    (hg : g ∈ s.groupHandOffs n t) (u : State) : (g u).pending = u.pending := by
  obtain ⟨k, -, rfl⟩ := List.mem_map.mp hg
  simp

/-! ### qualifiedChange -/

@[simp] theorem State.qualifiedChange_resetHeld (s : State) (n : CapLine) (t : Timestamp) :
    (s.qualifiedChange n t).resetHeld = s.resetHeld := by
  unfold State.qualifiedChange
  split
  · exact State.inAnyOrder_field State.resetHeld (fun _ => rfl) fun g hg u => s.groupHandOffs_resetHeld hg u
  · refine State.inAnyOrder_field State.resetHeld (fun _ => rfl) fun g hg u => ?_
    rcases List.mem_append.mp hg with hg | hg
    · exact s.groupHandOffs_resetHeld hg u
    · exact s.eventHandOffs_resetHeld hg u

@[simp] theorem State.qualifiedChange_capPins (s : State) (n : CapLine) (t : Timestamp) :
    (s.qualifiedChange n t).capPins = s.capPins := by
  unfold State.qualifiedChange
  split
  · exact State.inAnyOrder_field State.capPins (fun _ => rfl) fun g hg u => s.groupHandOffs_capPins hg u
  · refine State.inAnyOrder_field State.capPins (fun _ => rfl) fun g hg u => ?_
    rcases List.mem_append.mp hg with hg | hg
    · exact s.groupHandOffs_capPins hg u
    · exact s.eventHandOffs_capPins hg u

@[simp] theorem State.qualifiedChange_syncPin (s : State) (n : CapLine) (t : Timestamp) :
    (s.qualifiedChange n t).syncPin = s.syncPin := by
  unfold State.qualifiedChange
  split
  · exact State.inAnyOrder_field State.syncPin (fun _ => rfl) fun g hg u => s.groupHandOffs_syncPin hg u
  · refine State.inAnyOrder_field State.syncPin (fun _ => rfl) fun g hg u => ?_
    rcases List.mem_append.mp hg with hg | hg
    · exact s.groupHandOffs_syncPin hg u
    · exact s.eventHandOffs_syncPin hg u

@[simp] theorem State.qualifiedChange_cutoffPin (s : State) (n : CapLine) (t : Timestamp) :
    (s.qualifiedChange n t).cutoffPin = s.cutoffPin := by
  unfold State.qualifiedChange
  split
  · exact State.inAnyOrder_field State.cutoffPin (fun _ => rfl) fun g hg u => s.groupHandOffs_cutoffPin hg u
  · refine State.inAnyOrder_field State.cutoffPin (fun _ => rfl) fun g hg u => ?_
    rcases List.mem_append.mp hg with hg | hg
    · exact s.groupHandOffs_cutoffPin hg u
    · exact s.eventHandOffs_cutoffPin hg u

@[simp] theorem State.qualifiedChange_timebase (s : State) (n : CapLine) (t : Timestamp) :
    (s.qualifiedChange n t).timebase = s.timebase := by
  unfold State.qualifiedChange
  split
  · exact State.inAnyOrder_field State.timebase (fun _ => rfl) fun g hg u => s.groupHandOffs_timebase hg u
  · refine State.inAnyOrder_field State.timebase (fun _ => rfl) fun g hg u => ?_
    rcases List.mem_append.mp hg with hg | hg
    · exact s.groupHandOffs_timebase hg u
    · exact s.eventHandOffs_timebase hg u

@[simp] theorem State.qualifiedChange_groups (s : State) (n : CapLine) (t : Timestamp) :
    (s.qualifiedChange n t).groups = s.groups := by
  unfold State.qualifiedChange
  split
  · exact State.inAnyOrder_field State.groups (fun _ => rfl) fun g hg u => s.groupHandOffs_groups hg u
  · refine State.inAnyOrder_field State.groups (fun _ => rfl) fun g hg u => ?_
    rcases List.mem_append.mp hg with hg | hg
    · exact s.groupHandOffs_groups hg u
    · exact s.eventHandOffs_groups hg u

@[simp] theorem State.qualifiedChange_supervisor (s : State) (n : CapLine) (t : Timestamp) :
    (s.qualifiedChange n t).supervisor = s.supervisor := by
  unfold State.qualifiedChange
  split
  · exact State.inAnyOrder_field State.supervisor (fun _ => rfl) fun g hg u => s.groupHandOffs_supervisor hg u
  · refine State.inAnyOrder_field State.supervisor (fun _ => rfl) fun g hg u => ?_
    rcases List.mem_append.mp hg with hg | hg
    · exact s.groupHandOffs_supervisor hg u
    · exact s.eventHandOffs_supervisor hg u

@[simp] theorem State.qualifiedChange_label (s : State) (n : CapLine) (t : Timestamp) :
    (s.qualifiedChange n t).label = s.label := by
  unfold State.qualifiedChange
  split
  · exact State.inAnyOrder_field State.label (fun _ => rfl) fun g hg u => s.groupHandOffs_label hg u
  · refine State.inAnyOrder_field State.label (fun _ => rfl) fun g hg u => ?_
    rcases List.mem_append.mp hg with hg | hg
    · exact s.groupHandOffs_label hg u
    · exact s.eventHandOffs_label hg u

@[simp] theorem State.qualifiedChange_rights (s : State) (n : CapLine) (t : Timestamp) :
    (s.qualifiedChange n t).rights = s.rights := by
  unfold State.qualifiedChange
  split
  · exact State.inAnyOrder_field State.rights (fun _ => rfl) fun g hg u => s.groupHandOffs_rights hg u
  · refine State.inAnyOrder_field State.rights (fun _ => rfl) fun g hg u => ?_
    rcases List.mem_append.mp hg with hg | hg
    · exact s.groupHandOffs_rights hg u
    · exact s.eventHandOffs_rights hg u

@[simp] theorem State.qualifiedChange_ports (s : State) (n : CapLine) (t : Timestamp) :
    (s.qualifiedChange n t).ports = s.ports := by
  unfold State.qualifiedChange
  split
  · exact State.inAnyOrder_field State.ports (fun _ => rfl) fun g hg u => s.groupHandOffs_ports hg u
  · refine State.inAnyOrder_field State.ports (fun _ => rfl) fun g hg u => ?_
    rcases List.mem_append.mp hg with hg | hg
    · exact s.groupHandOffs_ports hg u
    · exact s.eventHandOffs_ports hg u

@[simp] theorem State.qualifiedChange_pending (s : State) (n : CapLine) (t : Timestamp) :
    (s.qualifiedChange n t).pending = s.pending := by
  unfold State.qualifiedChange
  split
  · exact State.inAnyOrder_field State.pending (fun _ => rfl) fun g hg u => s.groupHandOffs_pending hg u
  · refine State.inAnyOrder_field State.pending (fun _ => rfl) fun g hg u => ?_
    rcases List.mem_append.mp hg with hg | hg
    · exact s.groupHandOffs_pending hg u
    · exact s.eventHandOffs_pending hg u

@[simp] theorem State.qualifiedChange_now (s : State) (n : CapLine) (t : Timestamp) :
    (s.qualifiedChange n t).now = s.now := by simp only [State.now, State.qualifiedChange_timebase]

@[simp] theorem State.qualifiedChange_attachment (s : State) (n : CapLine) (t : Timestamp) (k : Master) :
    (s.qualifiedChange n t).attachment k = s.attachment k := by
  simp only [State.attachment, State.port, State.qualifiedChange_ports]

/-! ### sampleCapture -/

@[simp] theorem State.sampleCapture_resetHeld (s : State) (n : CapLine) (x : Level) :
    (s.sampleCapture n x).resetHeld = s.resetHeld := by
  unfold State.sampleCapture; dsimp only; split_ifs <;> simp [State.setCapture]

@[simp] theorem State.sampleCapture_syncPin (s : State) (n : CapLine) (x : Level) :
    (s.sampleCapture n x).syncPin = s.syncPin := by
  unfold State.sampleCapture; dsimp only; split_ifs <;> simp [State.setCapture]

@[simp] theorem State.sampleCapture_cutoffPin (s : State) (n : CapLine) (x : Level) :
    (s.sampleCapture n x).cutoffPin = s.cutoffPin := by
  unfold State.sampleCapture; dsimp only; split_ifs <;> simp [State.setCapture]

@[simp] theorem State.sampleCapture_timebase (s : State) (n : CapLine) (x : Level) :
    (s.sampleCapture n x).timebase = s.timebase := by
  unfold State.sampleCapture; dsimp only; split_ifs <;> simp [State.setCapture]

@[simp] theorem State.sampleCapture_groups (s : State) (n : CapLine) (x : Level) :
    (s.sampleCapture n x).groups = s.groups := by
  unfold State.sampleCapture; dsimp only; split_ifs <;> simp [State.setCapture]

@[simp] theorem State.sampleCapture_supervisor (s : State) (n : CapLine) (x : Level) :
    (s.sampleCapture n x).supervisor = s.supervisor := by
  unfold State.sampleCapture; dsimp only; split_ifs <;> simp [State.setCapture]

@[simp] theorem State.sampleCapture_label (s : State) (n : CapLine) (x : Level) :
    (s.sampleCapture n x).label = s.label := by
  unfold State.sampleCapture; dsimp only; split_ifs <;> simp [State.setCapture]

@[simp] theorem State.sampleCapture_rights (s : State) (n : CapLine) (x : Level) :
    (s.sampleCapture n x).rights = s.rights := by
  unfold State.sampleCapture; dsimp only; split_ifs <;> simp [State.setCapture]

@[simp] theorem State.sampleCapture_ports (s : State) (n : CapLine) (x : Level) :
    (s.sampleCapture n x).ports = s.ports := by
  unfold State.sampleCapture; dsimp only; split_ifs <;> simp [State.setCapture]

@[simp] theorem State.sampleCapture_pending (s : State) (n : CapLine) (x : Level) :
    (s.sampleCapture n x).pending = s.pending := by
  unfold State.sampleCapture; dsimp only; split_ifs <;> simp [State.setCapture]

@[simp] theorem State.sampleCapture_now (s : State) (n : CapLine) (x : Level) :
    (s.sampleCapture n x).now = s.now := by simp only [State.now, State.sampleCapture_timebase]

@[simp] theorem State.sampleCapture_attachment (s : State) (n : CapLine) (x : Level) (k : Master) :
    (s.sampleCapture n x).attachment k = s.attachment k := by
  simp only [State.attachment, State.port, State.sampleCapture_ports]

/-! ### sampleCutoff -/

@[simp] theorem State.sampleCutoff_resetHeld (s : State) (x : Level) :
    (s.sampleCutoff x).resetHeld = s.resetHeld := by
  unfold State.sampleCutoff; dsimp only; split_ifs <;> simp [State.setCutoff]

@[simp] theorem State.sampleCutoff_capPins (s : State) (x : Level) :
    (s.sampleCutoff x).capPins = s.capPins := by
  unfold State.sampleCutoff; dsimp only; split_ifs <;> simp [State.setCutoff]

@[simp] theorem State.sampleCutoff_syncPin (s : State) (x : Level) :
    (s.sampleCutoff x).syncPin = s.syncPin := by
  unfold State.sampleCutoff; dsimp only; split_ifs <;> simp [State.setCutoff]

@[simp] theorem State.sampleCutoff_timebase (s : State) (x : Level) :
    (s.sampleCutoff x).timebase = s.timebase := by
  unfold State.sampleCutoff; dsimp only; split_ifs <;> simp [State.setCutoff]

@[simp] theorem State.sampleCutoff_captures (s : State) (x : Level) :
    (s.sampleCutoff x).captures = s.captures := by
  unfold State.sampleCutoff; dsimp only; split_ifs <;> simp [State.setCutoff]

@[simp] theorem State.sampleCutoff_groups (s : State) (x : Level) :
    (s.sampleCutoff x).groups = s.groups := by
  unfold State.sampleCutoff; dsimp only; split_ifs <;> simp [State.setCutoff]

@[simp] theorem State.sampleCutoff_supervisor (s : State) (x : Level) :
    (s.sampleCutoff x).supervisor = s.supervisor := by
  unfold State.sampleCutoff; dsimp only; split_ifs <;> simp [State.setCutoff]

@[simp] theorem State.sampleCutoff_label (s : State) (x : Level) :
    (s.sampleCutoff x).label = s.label := by
  unfold State.sampleCutoff; dsimp only; split_ifs <;> simp [State.setCutoff]

@[simp] theorem State.sampleCutoff_rights (s : State) (x : Level) :
    (s.sampleCutoff x).rights = s.rights := by
  unfold State.sampleCutoff; dsimp only; split_ifs <;> simp [State.setCutoff]

@[simp] theorem State.sampleCutoff_ports (s : State) (x : Level) :
    (s.sampleCutoff x).ports = s.ports := by
  unfold State.sampleCutoff; dsimp only; split_ifs <;> simp [State.setCutoff]

@[simp] theorem State.sampleCutoff_pending (s : State) (x : Level) :
    (s.sampleCutoff x).pending = s.pending := by
  unfold State.sampleCutoff; dsimp only; split_ifs <;> simp [State.setCutoff]

@[simp] theorem State.sampleCutoff_now (s : State) (x : Level) :
    (s.sampleCutoff x).now = s.now := by simp only [State.now, State.sampleCutoff_timebase]

@[simp] theorem State.sampleCutoff_attachment (s : State) (x : Level) (k : Master) :
    (s.sampleCutoff x).attachment k = s.attachment k := by
  simp only [State.attachment, State.port, State.sampleCutoff_ports]

/-! ### sampleSync -/

@[simp] theorem State.sampleSync_resetHeld (s : State) (x : Level) :
    (s.sampleSync x).resetHeld = s.resetHeld := by
  unfold State.sampleSync; dsimp only; split_ifs <;> simp [State.setTimebase]

@[simp] theorem State.sampleSync_capPins (s : State) (x : Level) :
    (s.sampleSync x).capPins = s.capPins := by
  unfold State.sampleSync; dsimp only; split_ifs <;> simp [State.setTimebase]

@[simp] theorem State.sampleSync_cutoffPin (s : State) (x : Level) :
    (s.sampleSync x).cutoffPin = s.cutoffPin := by
  unfold State.sampleSync; dsimp only; split_ifs <;> simp [State.setTimebase]

@[simp] theorem State.sampleSync_captures (s : State) (x : Level) :
    (s.sampleSync x).captures = s.captures := by
  unfold State.sampleSync; dsimp only; split_ifs <;> simp [State.setTimebase]

@[simp] theorem State.sampleSync_groups (s : State) (x : Level) :
    (s.sampleSync x).groups = s.groups := by
  unfold State.sampleSync; dsimp only; split_ifs <;> simp [State.setTimebase]

@[simp] theorem State.sampleSync_lines (s : State) (x : Level) :
    (s.sampleSync x).lines = s.lines := by
  unfold State.sampleSync; dsimp only; split_ifs <;> simp [State.setTimebase]

@[simp] theorem State.sampleSync_pairs (s : State) (x : Level) :
    (s.sampleSync x).pairs = s.pairs := by
  unfold State.sampleSync; dsimp only; split_ifs <;> simp [State.setTimebase]

@[simp] theorem State.sampleSync_cutoff (s : State) (x : Level) :
    (s.sampleSync x).cutoff = s.cutoff := by
  unfold State.sampleSync; dsimp only; split_ifs <;> simp [State.setTimebase]

@[simp] theorem State.sampleSync_supervisor (s : State) (x : Level) :
    (s.sampleSync x).supervisor = s.supervisor := by
  unfold State.sampleSync; dsimp only; split_ifs <;> simp [State.setTimebase]

@[simp] theorem State.sampleSync_label (s : State) (x : Level) :
    (s.sampleSync x).label = s.label := by
  unfold State.sampleSync; dsimp only; split_ifs <;> simp [State.setTimebase]

@[simp] theorem State.sampleSync_rights (s : State) (x : Level) :
    (s.sampleSync x).rights = s.rights := by
  unfold State.sampleSync; dsimp only; split_ifs <;> simp [State.setTimebase]

@[simp] theorem State.sampleSync_ports (s : State) (x : Level) :
    (s.sampleSync x).ports = s.ports := by
  unfold State.sampleSync; dsimp only; split_ifs <;> simp [State.setTimebase]

@[simp] theorem State.sampleSync_arbiter (s : State) (x : Level) :
    (s.sampleSync x).arbiter = s.arbiter := by
  unfold State.sampleSync; dsimp only; split_ifs <;> simp [State.setTimebase]

@[simp] theorem State.sampleSync_pending (s : State) (x : Level) :
    (s.sampleSync x).pending = s.pending := by
  unfold State.sampleSync; dsimp only; split_ifs <;> simp [State.setTimebase]

@[simp] theorem State.sampleSync_attachment (s : State) (x : Level) (k : Master) :
    (s.sampleSync x).attachment k = s.attachment k := by
  simp only [State.attachment, State.port, State.sampleSync_ports]

/-! ### configureCapture -/

@[simp] theorem State.configureCapture_resetHeld (s : State) (n : CapLine) (x : CaptureSettings) :
    (s.configureCapture n x).resetHeld = s.resetHeld := by
  have h : ∀ g ∈ s.gateHandOff n x, ∀ u : State, (g u).resetHeld = u.resetHeld := by
    intro g hg u
    unfold State.gateHandOff at hg
    split at hg
    · simp at hg
    · simp only [mem_unless, List.mem_singleton] at hg
      rw [hg.2]; simp
  unfold State.configureCapture
  dsimp only
  split
  · exact State.inAnyOrder_field State.resetHeld (fun _ => rfl) h
  · refine State.inAnyOrder_field State.resetHeld (fun _ => rfl) ?_
    intro g hg u
    rcases List.mem_append.mp hg with hg | hg
    · exact h g hg u
    · exact s.eventHandOffs_resetHeld hg u

@[simp] theorem State.configureCapture_capPins (s : State) (n : CapLine) (x : CaptureSettings) :
    (s.configureCapture n x).capPins = s.capPins := by
  have h : ∀ g ∈ s.gateHandOff n x, ∀ u : State, (g u).capPins = u.capPins := by
    intro g hg u
    unfold State.gateHandOff at hg
    split at hg
    · simp at hg
    · simp only [mem_unless, List.mem_singleton] at hg
      rw [hg.2]; simp
  unfold State.configureCapture
  dsimp only
  split
  · exact State.inAnyOrder_field State.capPins (fun _ => rfl) h
  · refine State.inAnyOrder_field State.capPins (fun _ => rfl) ?_
    intro g hg u
    rcases List.mem_append.mp hg with hg | hg
    · exact h g hg u
    · exact s.eventHandOffs_capPins hg u

@[simp] theorem State.configureCapture_syncPin (s : State) (n : CapLine) (x : CaptureSettings) :
    (s.configureCapture n x).syncPin = s.syncPin := by
  have h : ∀ g ∈ s.gateHandOff n x, ∀ u : State, (g u).syncPin = u.syncPin := by
    intro g hg u
    unfold State.gateHandOff at hg
    split at hg
    · simp at hg
    · simp only [mem_unless, List.mem_singleton] at hg
      rw [hg.2]; simp
  unfold State.configureCapture
  dsimp only
  split
  · exact State.inAnyOrder_field State.syncPin (fun _ => rfl) h
  · refine State.inAnyOrder_field State.syncPin (fun _ => rfl) ?_
    intro g hg u
    rcases List.mem_append.mp hg with hg | hg
    · exact h g hg u
    · exact s.eventHandOffs_syncPin hg u

@[simp] theorem State.configureCapture_cutoffPin (s : State) (n : CapLine) (x : CaptureSettings) :
    (s.configureCapture n x).cutoffPin = s.cutoffPin := by
  have h : ∀ g ∈ s.gateHandOff n x, ∀ u : State, (g u).cutoffPin = u.cutoffPin := by
    intro g hg u
    unfold State.gateHandOff at hg
    split at hg
    · simp at hg
    · simp only [mem_unless, List.mem_singleton] at hg
      rw [hg.2]; simp
  unfold State.configureCapture
  dsimp only
  split
  · exact State.inAnyOrder_field State.cutoffPin (fun _ => rfl) h
  · refine State.inAnyOrder_field State.cutoffPin (fun _ => rfl) ?_
    intro g hg u
    rcases List.mem_append.mp hg with hg | hg
    · exact h g hg u
    · exact s.eventHandOffs_cutoffPin hg u

@[simp] theorem State.configureCapture_timebase (s : State) (n : CapLine) (x : CaptureSettings) :
    (s.configureCapture n x).timebase = s.timebase := by
  have h : ∀ g ∈ s.gateHandOff n x, ∀ u : State, (g u).timebase = u.timebase := by
    intro g hg u
    unfold State.gateHandOff at hg
    split at hg
    · simp at hg
    · simp only [mem_unless, List.mem_singleton] at hg
      rw [hg.2]; simp
  unfold State.configureCapture
  dsimp only
  split
  · exact State.inAnyOrder_field State.timebase (fun _ => rfl) h
  · refine State.inAnyOrder_field State.timebase (fun _ => rfl) ?_
    intro g hg u
    rcases List.mem_append.mp hg with hg | hg
    · exact h g hg u
    · exact s.eventHandOffs_timebase hg u

@[simp] theorem State.configureCapture_groups (s : State) (n : CapLine) (x : CaptureSettings) :
    (s.configureCapture n x).groups = s.groups := by
  have h : ∀ g ∈ s.gateHandOff n x, ∀ u : State, (g u).groups = u.groups := by
    intro g hg u
    unfold State.gateHandOff at hg
    split at hg
    · simp at hg
    · simp only [mem_unless, List.mem_singleton] at hg
      rw [hg.2]; simp
  unfold State.configureCapture
  dsimp only
  split
  · exact State.inAnyOrder_field State.groups (fun _ => rfl) h
  · refine State.inAnyOrder_field State.groups (fun _ => rfl) ?_
    intro g hg u
    rcases List.mem_append.mp hg with hg | hg
    · exact h g hg u
    · exact s.eventHandOffs_groups hg u

@[simp] theorem State.configureCapture_supervisor (s : State) (n : CapLine) (x : CaptureSettings) :
    (s.configureCapture n x).supervisor = s.supervisor := by
  have h : ∀ g ∈ s.gateHandOff n x, ∀ u : State, (g u).supervisor = u.supervisor := by
    intro g hg u
    unfold State.gateHandOff at hg
    split at hg
    · simp at hg
    · simp only [mem_unless, List.mem_singleton] at hg
      rw [hg.2]; simp
  unfold State.configureCapture
  dsimp only
  split
  · exact State.inAnyOrder_field State.supervisor (fun _ => rfl) h
  · refine State.inAnyOrder_field State.supervisor (fun _ => rfl) ?_
    intro g hg u
    rcases List.mem_append.mp hg with hg | hg
    · exact h g hg u
    · exact s.eventHandOffs_supervisor hg u

@[simp] theorem State.configureCapture_label (s : State) (n : CapLine) (x : CaptureSettings) :
    (s.configureCapture n x).label = s.label := by
  have h : ∀ g ∈ s.gateHandOff n x, ∀ u : State, (g u).label = u.label := by
    intro g hg u
    unfold State.gateHandOff at hg
    split at hg
    · simp at hg
    · simp only [mem_unless, List.mem_singleton] at hg
      rw [hg.2]; simp
  unfold State.configureCapture
  dsimp only
  split
  · exact State.inAnyOrder_field State.label (fun _ => rfl) h
  · refine State.inAnyOrder_field State.label (fun _ => rfl) ?_
    intro g hg u
    rcases List.mem_append.mp hg with hg | hg
    · exact h g hg u
    · exact s.eventHandOffs_label hg u

@[simp] theorem State.configureCapture_rights (s : State) (n : CapLine) (x : CaptureSettings) :
    (s.configureCapture n x).rights = s.rights := by
  have h : ∀ g ∈ s.gateHandOff n x, ∀ u : State, (g u).rights = u.rights := by
    intro g hg u
    unfold State.gateHandOff at hg
    split at hg
    · simp at hg
    · simp only [mem_unless, List.mem_singleton] at hg
      rw [hg.2]; simp
  unfold State.configureCapture
  dsimp only
  split
  · exact State.inAnyOrder_field State.rights (fun _ => rfl) h
  · refine State.inAnyOrder_field State.rights (fun _ => rfl) ?_
    intro g hg u
    rcases List.mem_append.mp hg with hg | hg
    · exact h g hg u
    · exact s.eventHandOffs_rights hg u

@[simp] theorem State.configureCapture_ports (s : State) (n : CapLine) (x : CaptureSettings) :
    (s.configureCapture n x).ports = s.ports := by
  have h : ∀ g ∈ s.gateHandOff n x, ∀ u : State, (g u).ports = u.ports := by
    intro g hg u
    unfold State.gateHandOff at hg
    split at hg
    · simp at hg
    · simp only [mem_unless, List.mem_singleton] at hg
      rw [hg.2]; simp
  unfold State.configureCapture
  dsimp only
  split
  · exact State.inAnyOrder_field State.ports (fun _ => rfl) h
  · refine State.inAnyOrder_field State.ports (fun _ => rfl) ?_
    intro g hg u
    rcases List.mem_append.mp hg with hg | hg
    · exact h g hg u
    · exact s.eventHandOffs_ports hg u

@[simp] theorem State.configureCapture_pending (s : State) (n : CapLine) (x : CaptureSettings) :
    (s.configureCapture n x).pending = s.pending := by
  have h : ∀ g ∈ s.gateHandOff n x, ∀ u : State, (g u).pending = u.pending := by
    intro g hg u
    unfold State.gateHandOff at hg
    split at hg
    · simp at hg
    · simp only [mem_unless, List.mem_singleton] at hg
      rw [hg.2]; simp
  unfold State.configureCapture
  dsimp only
  split
  · exact State.inAnyOrder_field State.pending (fun _ => rfl) h
  · refine State.inAnyOrder_field State.pending (fun _ => rfl) ?_
    intro g hg u
    rcases List.mem_append.mp hg with hg | hg
    · exact h g hg u
    · exact s.eventHandOffs_pending hg u

@[simp] theorem State.configureCapture_now (s : State) (n : CapLine) (x : CaptureSettings) :
    (s.configureCapture n x).now = s.now := by simp only [State.now, State.configureCapture_timebase]

@[simp] theorem State.configureCapture_attachment (s : State) (n : CapLine) (x : CaptureSettings) (k : Master) :
    (s.configureCapture n x).attachment k = s.attachment k := by
  simp only [State.attachment, State.port, State.configureCapture_ports]

/-! ### changeMask -/

@[simp] theorem State.changeMask_resetHeld (s : State) (e : EntryIx) (b : Bool) :
    (s.changeMask e b).resetHeld = s.resetHeld := by
  unfold State.changeMask; dsimp only; split <;> (try split_ifs) <;> first | rfl | simp

@[simp] theorem State.changeMask_capPins (s : State) (e : EntryIx) (b : Bool) :
    (s.changeMask e b).capPins = s.capPins := by
  unfold State.changeMask; dsimp only; split <;> (try split_ifs) <;> first | rfl | simp

@[simp] theorem State.changeMask_syncPin (s : State) (e : EntryIx) (b : Bool) :
    (s.changeMask e b).syncPin = s.syncPin := by
  unfold State.changeMask; dsimp only; split <;> (try split_ifs) <;> first | rfl | simp

@[simp] theorem State.changeMask_cutoffPin (s : State) (e : EntryIx) (b : Bool) :
    (s.changeMask e b).cutoffPin = s.cutoffPin := by
  unfold State.changeMask; dsimp only; split <;> (try split_ifs) <;> first | rfl | simp

@[simp] theorem State.changeMask_timebase (s : State) (e : EntryIx) (b : Bool) :
    (s.changeMask e b).timebase = s.timebase := by
  unfold State.changeMask; dsimp only; split <;> (try split_ifs) <;> first | rfl | simp

@[simp] theorem State.changeMask_captures (s : State) (e : EntryIx) (b : Bool) :
    (s.changeMask e b).captures = s.captures := by
  unfold State.changeMask; dsimp only; split <;> (try split_ifs) <;> first | rfl | simp

@[simp] theorem State.changeMask_groups (s : State) (e : EntryIx) (b : Bool) :
    (s.changeMask e b).groups = s.groups := by
  unfold State.changeMask; dsimp only; split <;> (try split_ifs) <;> first | rfl | simp

@[simp] theorem State.changeMask_actions (s : State) (e : EntryIx) (b : Bool) :
    (s.changeMask e b).actions = s.actions := by
  unfold State.changeMask; dsimp only; split <;> (try split_ifs) <;> first | rfl | simp

@[simp] theorem State.changeMask_lines (s : State) (e : EntryIx) (b : Bool) :
    (s.changeMask e b).lines = s.lines := by
  unfold State.changeMask; dsimp only; split <;> (try split_ifs) <;> first | rfl | simp

@[simp] theorem State.changeMask_pairs (s : State) (e : EntryIx) (b : Bool) :
    (s.changeMask e b).pairs = s.pairs := by
  unfold State.changeMask; dsimp only; split <;> (try split_ifs) <;> first | rfl | simp

@[simp] theorem State.changeMask_cutoff (s : State) (e : EntryIx) (b : Bool) :
    (s.changeMask e b).cutoff = s.cutoff := by
  unfold State.changeMask; dsimp only; split <;> (try split_ifs) <;> first | rfl | simp

@[simp] theorem State.changeMask_supervisor (s : State) (e : EntryIx) (b : Bool) :
    (s.changeMask e b).supervisor = s.supervisor := by
  unfold State.changeMask; dsimp only; split <;> (try split_ifs) <;> first | rfl | simp

@[simp] theorem State.changeMask_label (s : State) (e : EntryIx) (b : Bool) :
    (s.changeMask e b).label = s.label := by
  unfold State.changeMask; dsimp only; split <;> (try split_ifs) <;> first | rfl | simp

@[simp] theorem State.changeMask_rights (s : State) (e : EntryIx) (b : Bool) :
    (s.changeMask e b).rights = s.rights := by
  unfold State.changeMask; dsimp only; split <;> (try split_ifs) <;> first | rfl | simp

@[simp] theorem State.changeMask_ports (s : State) (e : EntryIx) (b : Bool) :
    (s.changeMask e b).ports = s.ports := by
  unfold State.changeMask; dsimp only; split <;> (try split_ifs) <;> first | rfl | simp

@[simp] theorem State.changeMask_arbiter (s : State) (e : EntryIx) (b : Bool) :
    (s.changeMask e b).arbiter = s.arbiter := by
  unfold State.changeMask; dsimp only; split <;> (try split_ifs) <;> first | rfl | simp

@[simp] theorem State.changeMask_pending (s : State) (e : EntryIx) (b : Bool) :
    (s.changeMask e b).pending = s.pending := by
  unfold State.changeMask; dsimp only; split <;> (try split_ifs) <;> first | rfl | simp

@[simp] theorem State.changeMask_now (s : State) (e : EntryIx) (b : Bool) :
    (s.changeMask e b).now = s.now := by simp only [State.now, State.changeMask_timebase]

@[simp] theorem State.changeMask_attachment (s : State) (e : EntryIx) (b : Bool) (k : Master) :
    (s.changeMask e b).attachment k = s.attachment k := by
  simp only [State.attachment, State.port, State.changeMask_ports]

/-! ### writeEntry -/

@[simp] theorem State.writeEntry_resetHeld (s : State) (e : EntryIx) (c : EntrySettings) :
    (s.writeEntry e c).resetHeld = s.resetHeld := by
  unfold State.writeEntry
  refine State.inAnyOrder_field State.resetHeld (fun _ => rfl) ?_
  intro g hg u
  rcases List.mem_append.mp hg with hg | hg
  · unfold State.writeAttempt at hg
    split at hg
    · rw [List.mem_singleton.mp hg]; simp
    · simp at hg
  · unfold State.flagHandOff at hg
    split at hg
    · simp at hg
    · split at hg
      · split at hg <;> first | (rw [List.mem_singleton.mp hg]; simp) | simp at hg
      · simp at hg

@[simp] theorem State.writeEntry_capPins (s : State) (e : EntryIx) (c : EntrySettings) :
    (s.writeEntry e c).capPins = s.capPins := by
  unfold State.writeEntry
  refine State.inAnyOrder_field State.capPins (fun _ => rfl) ?_
  intro g hg u
  rcases List.mem_append.mp hg with hg | hg
  · unfold State.writeAttempt at hg
    split at hg
    · rw [List.mem_singleton.mp hg]; simp
    · simp at hg
  · unfold State.flagHandOff at hg
    split at hg
    · simp at hg
    · split at hg
      · split at hg <;> first | (rw [List.mem_singleton.mp hg]; simp) | simp at hg
      · simp at hg

@[simp] theorem State.writeEntry_syncPin (s : State) (e : EntryIx) (c : EntrySettings) :
    (s.writeEntry e c).syncPin = s.syncPin := by
  unfold State.writeEntry
  refine State.inAnyOrder_field State.syncPin (fun _ => rfl) ?_
  intro g hg u
  rcases List.mem_append.mp hg with hg | hg
  · unfold State.writeAttempt at hg
    split at hg
    · rw [List.mem_singleton.mp hg]; simp
    · simp at hg
  · unfold State.flagHandOff at hg
    split at hg
    · simp at hg
    · split at hg
      · split at hg <;> first | (rw [List.mem_singleton.mp hg]; simp) | simp at hg
      · simp at hg

@[simp] theorem State.writeEntry_cutoffPin (s : State) (e : EntryIx) (c : EntrySettings) :
    (s.writeEntry e c).cutoffPin = s.cutoffPin := by
  unfold State.writeEntry
  refine State.inAnyOrder_field State.cutoffPin (fun _ => rfl) ?_
  intro g hg u
  rcases List.mem_append.mp hg with hg | hg
  · unfold State.writeAttempt at hg
    split at hg
    · rw [List.mem_singleton.mp hg]; simp
    · simp at hg
  · unfold State.flagHandOff at hg
    split at hg
    · simp at hg
    · split at hg
      · split at hg <;> first | (rw [List.mem_singleton.mp hg]; simp) | simp at hg
      · simp at hg

@[simp] theorem State.writeEntry_timebase (s : State) (e : EntryIx) (c : EntrySettings) :
    (s.writeEntry e c).timebase = s.timebase := by
  unfold State.writeEntry
  refine State.inAnyOrder_field State.timebase (fun _ => rfl) ?_
  intro g hg u
  rcases List.mem_append.mp hg with hg | hg
  · unfold State.writeAttempt at hg
    split at hg
    · rw [List.mem_singleton.mp hg]; simp
    · simp at hg
  · unfold State.flagHandOff at hg
    split at hg
    · simp at hg
    · split at hg
      · split at hg <;> first | (rw [List.mem_singleton.mp hg]; simp) | simp at hg
      · simp at hg

@[simp] theorem State.writeEntry_captures (s : State) (e : EntryIx) (c : EntrySettings) :
    (s.writeEntry e c).captures = s.captures := by
  unfold State.writeEntry
  refine State.inAnyOrder_field State.captures (fun _ => rfl) ?_
  intro g hg u
  rcases List.mem_append.mp hg with hg | hg
  · unfold State.writeAttempt at hg
    split at hg
    · rw [List.mem_singleton.mp hg]; simp
    · simp at hg
  · unfold State.flagHandOff at hg
    split at hg
    · simp at hg
    · split at hg
      · split at hg <;> first | (rw [List.mem_singleton.mp hg]; simp) | simp at hg
      · simp at hg

@[simp] theorem State.writeEntry_groups (s : State) (e : EntryIx) (c : EntrySettings) :
    (s.writeEntry e c).groups = s.groups := by
  unfold State.writeEntry
  refine State.inAnyOrder_field State.groups (fun _ => rfl) ?_
  intro g hg u
  rcases List.mem_append.mp hg with hg | hg
  · unfold State.writeAttempt at hg
    split at hg
    · rw [List.mem_singleton.mp hg]; simp
    · simp at hg
  · unfold State.flagHandOff at hg
    split at hg
    · simp at hg
    · split at hg
      · split at hg <;> first | (rw [List.mem_singleton.mp hg]; simp) | simp at hg
      · simp at hg

@[simp] theorem State.writeEntry_supervisor (s : State) (e : EntryIx) (c : EntrySettings) :
    (s.writeEntry e c).supervisor = s.supervisor := by
  unfold State.writeEntry
  refine State.inAnyOrder_field State.supervisor (fun _ => rfl) ?_
  intro g hg u
  rcases List.mem_append.mp hg with hg | hg
  · unfold State.writeAttempt at hg
    split at hg
    · rw [List.mem_singleton.mp hg]; simp
    · simp at hg
  · unfold State.flagHandOff at hg
    split at hg
    · simp at hg
    · split at hg
      · split at hg <;> first | (rw [List.mem_singleton.mp hg]; simp) | simp at hg
      · simp at hg

@[simp] theorem State.writeEntry_label (s : State) (e : EntryIx) (c : EntrySettings) :
    (s.writeEntry e c).label = s.label := by
  unfold State.writeEntry
  refine State.inAnyOrder_field State.label (fun _ => rfl) ?_
  intro g hg u
  rcases List.mem_append.mp hg with hg | hg
  · unfold State.writeAttempt at hg
    split at hg
    · rw [List.mem_singleton.mp hg]; simp
    · simp at hg
  · unfold State.flagHandOff at hg
    split at hg
    · simp at hg
    · split at hg
      · split at hg <;> first | (rw [List.mem_singleton.mp hg]; simp) | simp at hg
      · simp at hg

@[simp] theorem State.writeEntry_rights (s : State) (e : EntryIx) (c : EntrySettings) :
    (s.writeEntry e c).rights = s.rights := by
  unfold State.writeEntry
  refine State.inAnyOrder_field State.rights (fun _ => rfl) ?_
  intro g hg u
  rcases List.mem_append.mp hg with hg | hg
  · unfold State.writeAttempt at hg
    split at hg
    · rw [List.mem_singleton.mp hg]; simp
    · simp at hg
  · unfold State.flagHandOff at hg
    split at hg
    · simp at hg
    · split at hg
      · split at hg <;> first | (rw [List.mem_singleton.mp hg]; simp) | simp at hg
      · simp at hg

@[simp] theorem State.writeEntry_ports (s : State) (e : EntryIx) (c : EntrySettings) :
    (s.writeEntry e c).ports = s.ports := by
  unfold State.writeEntry
  refine State.inAnyOrder_field State.ports (fun _ => rfl) ?_
  intro g hg u
  rcases List.mem_append.mp hg with hg | hg
  · unfold State.writeAttempt at hg
    split at hg
    · rw [List.mem_singleton.mp hg]; simp
    · simp at hg
  · unfold State.flagHandOff at hg
    split at hg
    · simp at hg
    · split at hg
      · split at hg <;> first | (rw [List.mem_singleton.mp hg]; simp) | simp at hg
      · simp at hg

@[simp] theorem State.writeEntry_pending (s : State) (e : EntryIx) (c : EntrySettings) :
    (s.writeEntry e c).pending = s.pending := by
  unfold State.writeEntry
  refine State.inAnyOrder_field State.pending (fun _ => rfl) ?_
  intro g hg u
  rcases List.mem_append.mp hg with hg | hg
  · unfold State.writeAttempt at hg
    split at hg
    · rw [List.mem_singleton.mp hg]; simp
    · simp at hg
  · unfold State.flagHandOff at hg
    split at hg
    · simp at hg
    · split at hg
      · split at hg <;> first | (rw [List.mem_singleton.mp hg]; simp) | simp at hg
      · simp at hg

@[simp] theorem State.writeEntry_now (s : State) (e : EntryIx) (c : EntrySettings) :
    (s.writeEntry e c).now = s.now := by simp only [State.now, State.writeEntry_timebase]

@[simp] theorem State.writeEntry_attachment (s : State) (e : EntryIx) (c : EntrySettings) (k : Master) :
    (s.writeEntry e c).attachment k = s.attachment k := by
  simp only [State.attachment, State.port, State.writeEntry_ports]

/-! ### writeRights -/

@[simp] theorem State.writeRights_resetHeld (s : State) (c : RightsSettings) :
    (s.writeRights c).resetHeld = s.resetHeld := by
  unfold State.writeRights
  dsimp only
  refine (State.inAnyOrder_field State.resetHeld (fun _ => rfl) ?_).trans (by simp [State.setRight])
  intro g hg u
  rcases List.mem_append.mp hg with hg | hg
  · simp only [mem_unless, List.mem_singleton] at hg
    rw [hg.2]; simp
  · split at hg
    · rw [List.mem_singleton.mp hg]; simp
    · simp at hg

@[simp] theorem State.writeRights_capPins (s : State) (c : RightsSettings) :
    (s.writeRights c).capPins = s.capPins := by
  unfold State.writeRights
  dsimp only
  refine (State.inAnyOrder_field State.capPins (fun _ => rfl) ?_).trans (by simp [State.setRight])
  intro g hg u
  rcases List.mem_append.mp hg with hg | hg
  · simp only [mem_unless, List.mem_singleton] at hg
    rw [hg.2]; simp
  · split at hg
    · rw [List.mem_singleton.mp hg]; simp
    · simp at hg

@[simp] theorem State.writeRights_syncPin (s : State) (c : RightsSettings) :
    (s.writeRights c).syncPin = s.syncPin := by
  unfold State.writeRights
  dsimp only
  refine (State.inAnyOrder_field State.syncPin (fun _ => rfl) ?_).trans (by simp [State.setRight])
  intro g hg u
  rcases List.mem_append.mp hg with hg | hg
  · simp only [mem_unless, List.mem_singleton] at hg
    rw [hg.2]; simp
  · split at hg
    · rw [List.mem_singleton.mp hg]; simp
    · simp at hg

@[simp] theorem State.writeRights_cutoffPin (s : State) (c : RightsSettings) :
    (s.writeRights c).cutoffPin = s.cutoffPin := by
  unfold State.writeRights
  dsimp only
  refine (State.inAnyOrder_field State.cutoffPin (fun _ => rfl) ?_).trans (by simp [State.setRight])
  intro g hg u
  rcases List.mem_append.mp hg with hg | hg
  · simp only [mem_unless, List.mem_singleton] at hg
    rw [hg.2]; simp
  · split at hg
    · rw [List.mem_singleton.mp hg]; simp
    · simp at hg

@[simp] theorem State.writeRights_timebase (s : State) (c : RightsSettings) :
    (s.writeRights c).timebase = s.timebase := by
  unfold State.writeRights
  dsimp only
  refine (State.inAnyOrder_field State.timebase (fun _ => rfl) ?_).trans (by simp [State.setRight])
  intro g hg u
  rcases List.mem_append.mp hg with hg | hg
  · simp only [mem_unless, List.mem_singleton] at hg
    rw [hg.2]; simp
  · split at hg
    · rw [List.mem_singleton.mp hg]; simp
    · simp at hg

@[simp] theorem State.writeRights_captures (s : State) (c : RightsSettings) :
    (s.writeRights c).captures = s.captures := by
  unfold State.writeRights
  dsimp only
  refine (State.inAnyOrder_field State.captures (fun _ => rfl) ?_).trans (by simp [State.setRight])
  intro g hg u
  rcases List.mem_append.mp hg with hg | hg
  · simp only [mem_unless, List.mem_singleton] at hg
    rw [hg.2]; simp
  · split at hg
    · rw [List.mem_singleton.mp hg]; simp
    · simp at hg

@[simp] theorem State.writeRights_groups (s : State) (c : RightsSettings) :
    (s.writeRights c).groups = s.groups := by
  unfold State.writeRights
  dsimp only
  refine (State.inAnyOrder_field State.groups (fun _ => rfl) ?_).trans (by simp [State.setRight])
  intro g hg u
  rcases List.mem_append.mp hg with hg | hg
  · simp only [mem_unless, List.mem_singleton] at hg
    rw [hg.2]; simp
  · split at hg
    · rw [List.mem_singleton.mp hg]; simp
    · simp at hg

@[simp] theorem State.writeRights_supervisor (s : State) (c : RightsSettings) :
    (s.writeRights c).supervisor = s.supervisor := by
  unfold State.writeRights
  dsimp only
  refine (State.inAnyOrder_field State.supervisor (fun _ => rfl) ?_).trans (by simp [State.setRight])
  intro g hg u
  rcases List.mem_append.mp hg with hg | hg
  · simp only [mem_unless, List.mem_singleton] at hg
    rw [hg.2]; simp
  · split at hg
    · rw [List.mem_singleton.mp hg]; simp
    · simp at hg

@[simp] theorem State.writeRights_label (s : State) (c : RightsSettings) :
    (s.writeRights c).label = s.label := by
  unfold State.writeRights
  dsimp only
  refine (State.inAnyOrder_field State.label (fun _ => rfl) ?_).trans (by simp [State.setRight])
  intro g hg u
  rcases List.mem_append.mp hg with hg | hg
  · simp only [mem_unless, List.mem_singleton] at hg
    rw [hg.2]; simp
  · split at hg
    · rw [List.mem_singleton.mp hg]; simp
    · simp at hg

@[simp] theorem State.writeRights_ports (s : State) (c : RightsSettings) :
    (s.writeRights c).ports = s.ports := by
  unfold State.writeRights
  dsimp only
  refine (State.inAnyOrder_field State.ports (fun _ => rfl) ?_).trans (by simp [State.setRight])
  intro g hg u
  rcases List.mem_append.mp hg with hg | hg
  · simp only [mem_unless, List.mem_singleton] at hg
    rw [hg.2]; simp
  · split at hg
    · rw [List.mem_singleton.mp hg]; simp
    · simp at hg

@[simp] theorem State.writeRights_pending (s : State) (c : RightsSettings) :
    (s.writeRights c).pending = s.pending := by
  unfold State.writeRights
  dsimp only
  refine (State.inAnyOrder_field State.pending (fun _ => rfl) ?_).trans (by simp [State.setRight])
  intro g hg u
  rcases List.mem_append.mp hg with hg | hg
  · simp only [mem_unless, List.mem_singleton] at hg
    rw [hg.2]; simp
  · split at hg
    · rw [List.mem_singleton.mp hg]; simp
    · simp at hg

@[simp] theorem State.writeRights_now (s : State) (c : RightsSettings) :
    (s.writeRights c).now = s.now := by simp only [State.now, State.writeRights_timebase]

@[simp] theorem State.writeRights_attachment (s : State) (c : RightsSettings) (k : Master) :
    (s.writeRights c).attachment k = s.attachment k := by
  simp only [State.attachment, State.port, State.writeRights_ports]

/-! ### tearDown -/

@[simp] theorem State.tearDown_resetHeld (s : State) (m : Master) :
    (s.tearDown m).resetHeld = s.resetHeld := by
  unfold State.tearDown; simp [State.setAttachment, State.setPort, State.setQueue]

@[simp] theorem State.tearDown_capPins (s : State) (m : Master) :
    (s.tearDown m).capPins = s.capPins := by
  unfold State.tearDown; simp [State.setAttachment, State.setPort, State.setQueue]

@[simp] theorem State.tearDown_syncPin (s : State) (m : Master) :
    (s.tearDown m).syncPin = s.syncPin := by
  unfold State.tearDown; simp [State.setAttachment, State.setPort, State.setQueue]

@[simp] theorem State.tearDown_cutoffPin (s : State) (m : Master) :
    (s.tearDown m).cutoffPin = s.cutoffPin := by
  unfold State.tearDown; simp [State.setAttachment, State.setPort, State.setQueue]

@[simp] theorem State.tearDown_timebase (s : State) (m : Master) :
    (s.tearDown m).timebase = s.timebase := by
  unfold State.tearDown; simp [State.setAttachment, State.setPort, State.setQueue]

@[simp] theorem State.tearDown_captures (s : State) (m : Master) :
    (s.tearDown m).captures = s.captures := by
  unfold State.tearDown; simp [State.setAttachment, State.setPort, State.setQueue]

@[simp] theorem State.tearDown_groups (s : State) (m : Master) :
    (s.tearDown m).groups = s.groups := by
  unfold State.tearDown; simp [State.setAttachment, State.setPort, State.setQueue]

@[simp] theorem State.tearDown_entries (s : State) (m : Master) :
    (s.tearDown m).entries = s.entries := by
  unfold State.tearDown; simp [State.setAttachment, State.setPort, State.setQueue]

@[simp] theorem State.tearDown_cutoff (s : State) (m : Master) :
    (s.tearDown m).cutoff = s.cutoff := by
  unfold State.tearDown; simp [State.setAttachment, State.setPort, State.setQueue]

@[simp] theorem State.tearDown_supervisor (s : State) (m : Master) :
    (s.tearDown m).supervisor = s.supervisor := by
  unfold State.tearDown; simp [State.setAttachment, State.setPort, State.setQueue]

@[simp] theorem State.tearDown_label (s : State) (m : Master) :
    (s.tearDown m).label = s.label := by
  unfold State.tearDown; simp [State.setAttachment, State.setPort, State.setQueue]

@[simp] theorem State.tearDown_rights (s : State) (m : Master) :
    (s.tearDown m).rights = s.rights := by
  unfold State.tearDown; simp [State.setAttachment, State.setPort, State.setQueue]

@[simp] theorem State.tearDown_arbiter (s : State) (m : Master) :
    (s.tearDown m).arbiter = s.arbiter := by
  unfold State.tearDown; simp [State.setAttachment, State.setPort, State.setQueue]

@[simp] theorem State.tearDown_pending (s : State) (m : Master) :
    (s.tearDown m).pending = s.pending := by
  unfold State.tearDown; simp [State.setAttachment, State.setPort, State.setQueue]

@[simp] theorem State.tearDown_now (s : State) (m : Master) :
    (s.tearDown m).now = s.now := by simp only [State.now, State.tearDown_timebase]

/-! ### takeExpiries -/

@[simp] theorem State.takeExpiries_resetHeld (s : State) :
    (s.takeExpiries).resetHeld = s.resetHeld := by
  unfold State.takeExpiries
  refine State.inAnyOrder_field State.resetHeld (fun _ => rfl) ?_
  intro g hg u
  simp only [List.mem_map] at hg
  obtain ⟨e, -, rfl⟩ := hg
  simp

@[simp] theorem State.takeExpiries_capPins (s : State) :
    (s.takeExpiries).capPins = s.capPins := by
  unfold State.takeExpiries
  refine State.inAnyOrder_field State.capPins (fun _ => rfl) ?_
  intro g hg u
  simp only [List.mem_map] at hg
  obtain ⟨e, -, rfl⟩ := hg
  simp

@[simp] theorem State.takeExpiries_syncPin (s : State) :
    (s.takeExpiries).syncPin = s.syncPin := by
  unfold State.takeExpiries
  refine State.inAnyOrder_field State.syncPin (fun _ => rfl) ?_
  intro g hg u
  simp only [List.mem_map] at hg
  obtain ⟨e, -, rfl⟩ := hg
  simp

@[simp] theorem State.takeExpiries_cutoffPin (s : State) :
    (s.takeExpiries).cutoffPin = s.cutoffPin := by
  unfold State.takeExpiries
  refine State.inAnyOrder_field State.cutoffPin (fun _ => rfl) ?_
  intro g hg u
  simp only [List.mem_map] at hg
  obtain ⟨e, -, rfl⟩ := hg
  simp

@[simp] theorem State.takeExpiries_timebase (s : State) :
    (s.takeExpiries).timebase = s.timebase := by
  unfold State.takeExpiries
  refine State.inAnyOrder_field State.timebase (fun _ => rfl) ?_
  intro g hg u
  simp only [List.mem_map] at hg
  obtain ⟨e, -, rfl⟩ := hg
  simp

@[simp] theorem State.takeExpiries_captures (s : State) :
    (s.takeExpiries).captures = s.captures := by
  unfold State.takeExpiries
  refine State.inAnyOrder_field State.captures (fun _ => rfl) ?_
  intro g hg u
  simp only [List.mem_map] at hg
  obtain ⟨e, -, rfl⟩ := hg
  simp

@[simp] theorem State.takeExpiries_groups (s : State) :
    (s.takeExpiries).groups = s.groups := by
  unfold State.takeExpiries
  refine State.inAnyOrder_field State.groups (fun _ => rfl) ?_
  intro g hg u
  simp only [List.mem_map] at hg
  obtain ⟨e, -, rfl⟩ := hg
  simp

@[simp] theorem State.takeExpiries_actions (s : State) :
    (s.takeExpiries).actions = s.actions := by
  unfold State.takeExpiries
  refine State.inAnyOrder_field State.actions (fun _ => rfl) ?_
  intro g hg u
  simp only [List.mem_map] at hg
  obtain ⟨e, -, rfl⟩ := hg
  simp

@[simp] theorem State.takeExpiries_lines (s : State) :
    (s.takeExpiries).lines = s.lines := by
  unfold State.takeExpiries
  refine State.inAnyOrder_field State.lines (fun _ => rfl) ?_
  intro g hg u
  simp only [List.mem_map] at hg
  obtain ⟨e, -, rfl⟩ := hg
  simp

@[simp] theorem State.takeExpiries_pairs (s : State) :
    (s.takeExpiries).pairs = s.pairs := by
  unfold State.takeExpiries
  refine State.inAnyOrder_field State.pairs (fun _ => rfl) ?_
  intro g hg u
  simp only [List.mem_map] at hg
  obtain ⟨e, -, rfl⟩ := hg
  simp

@[simp] theorem State.takeExpiries_cutoff (s : State) :
    (s.takeExpiries).cutoff = s.cutoff := by
  unfold State.takeExpiries
  refine State.inAnyOrder_field State.cutoff (fun _ => rfl) ?_
  intro g hg u
  simp only [List.mem_map] at hg
  obtain ⟨e, -, rfl⟩ := hg
  simp

@[simp] theorem State.takeExpiries_supervisor (s : State) :
    (s.takeExpiries).supervisor = s.supervisor := by
  unfold State.takeExpiries
  refine State.inAnyOrder_field State.supervisor (fun _ => rfl) ?_
  intro g hg u
  simp only [List.mem_map] at hg
  obtain ⟨e, -, rfl⟩ := hg
  simp

@[simp] theorem State.takeExpiries_label (s : State) :
    (s.takeExpiries).label = s.label := by
  unfold State.takeExpiries
  refine State.inAnyOrder_field State.label (fun _ => rfl) ?_
  intro g hg u
  simp only [List.mem_map] at hg
  obtain ⟨e, -, rfl⟩ := hg
  simp

@[simp] theorem State.takeExpiries_rights (s : State) :
    (s.takeExpiries).rights = s.rights := by
  unfold State.takeExpiries
  refine State.inAnyOrder_field State.rights (fun _ => rfl) ?_
  intro g hg u
  simp only [List.mem_map] at hg
  obtain ⟨e, -, rfl⟩ := hg
  simp

@[simp] theorem State.takeExpiries_ports (s : State) :
    (s.takeExpiries).ports = s.ports := by
  unfold State.takeExpiries
  refine State.inAnyOrder_field State.ports (fun _ => rfl) ?_
  intro g hg u
  simp only [List.mem_map] at hg
  obtain ⟨e, -, rfl⟩ := hg
  simp

@[simp] theorem State.takeExpiries_pending (s : State) :
    (s.takeExpiries).pending = s.pending := by
  unfold State.takeExpiries
  refine State.inAnyOrder_field State.pending (fun _ => rfl) ?_
  intro g hg u
  simp only [List.mem_map] at hg
  obtain ⟨e, -, rfl⟩ := hg
  simp

@[simp] theorem State.takeExpiries_now (s : State) :
    (s.takeExpiries).now = s.now := by simp only [State.now, State.takeExpiries_timebase]

@[simp] theorem State.takeExpiries_attachment (s : State) (k : Master) :
    (s.takeExpiries).attachment k = s.attachment k := by
  simp only [State.attachment, State.port, State.takeExpiries_ports]

/-! ### servicePeriod -/

@[simp] theorem State.servicePeriod_resetHeld (s : State) :
    (s.servicePeriod).resetHeld = s.resetHeld := by
  unfold State.servicePeriod; simp [State.setTimebase]

@[simp] theorem State.servicePeriod_capPins (s : State) :
    (s.servicePeriod).capPins = s.capPins := by
  unfold State.servicePeriod; simp [State.setTimebase]

@[simp] theorem State.servicePeriod_syncPin (s : State) :
    (s.servicePeriod).syncPin = s.syncPin := by
  unfold State.servicePeriod; simp [State.setTimebase]

@[simp] theorem State.servicePeriod_cutoffPin (s : State) :
    (s.servicePeriod).cutoffPin = s.cutoffPin := by
  unfold State.servicePeriod; simp [State.setTimebase]

@[simp] theorem State.servicePeriod_captures (s : State) :
    (s.servicePeriod).captures = s.captures := by
  unfold State.servicePeriod; simp [State.setTimebase]

@[simp] theorem State.servicePeriod_groups (s : State) :
    (s.servicePeriod).groups = s.groups := by
  unfold State.servicePeriod; simp [State.setTimebase]

@[simp] theorem State.servicePeriod_actions (s : State) :
    (s.servicePeriod).actions = s.actions := by
  unfold State.servicePeriod; simp [State.setTimebase]

@[simp] theorem State.servicePeriod_lines (s : State) :
    (s.servicePeriod).lines = s.lines := by
  unfold State.servicePeriod; simp [State.setTimebase]

@[simp] theorem State.servicePeriod_pairs (s : State) :
    (s.servicePeriod).pairs = s.pairs := by
  unfold State.servicePeriod; simp [State.setTimebase]

@[simp] theorem State.servicePeriod_cutoff (s : State) :
    (s.servicePeriod).cutoff = s.cutoff := by
  unfold State.servicePeriod; simp [State.setTimebase]

@[simp] theorem State.servicePeriod_supervisor (s : State) :
    (s.servicePeriod).supervisor = s.supervisor := by
  unfold State.servicePeriod; simp [State.setTimebase]

@[simp] theorem State.servicePeriod_label (s : State) :
    (s.servicePeriod).label = s.label := by
  unfold State.servicePeriod; simp [State.setTimebase]

@[simp] theorem State.servicePeriod_rights (s : State) :
    (s.servicePeriod).rights = s.rights := by
  unfold State.servicePeriod; simp [State.setTimebase]

@[simp] theorem State.servicePeriod_ports (s : State) :
    (s.servicePeriod).ports = s.ports := by
  unfold State.servicePeriod; simp [State.setTimebase]

@[simp] theorem State.servicePeriod_pending (s : State) :
    (s.servicePeriod).pending = s.pending := by
  unfold State.servicePeriod; simp [State.setTimebase]

@[simp] theorem State.servicePeriod_attachment (s : State) (k : Master) :
    (s.servicePeriod).attachment k = s.attachment k := by
  simp only [State.attachment, State.port, State.servicePeriod_ports]

/-! ### tick -/

@[simp] theorem State.tick_resetHeld (s : State) :
    (s.tick).resetHeld = s.resetHeld := by
  unfold State.tick; dsimp only; split_ifs <;> simp [State.setTimebase, State.tickDeadTimes]

@[simp] theorem State.tick_capPins (s : State) :
    (s.tick).capPins = s.capPins := by
  unfold State.tick; dsimp only; split_ifs <;> simp [State.setTimebase, State.tickDeadTimes]

@[simp] theorem State.tick_syncPin (s : State) :
    (s.tick).syncPin = s.syncPin := by
  unfold State.tick; dsimp only; split_ifs <;> simp [State.setTimebase, State.tickDeadTimes]

@[simp] theorem State.tick_cutoffPin (s : State) :
    (s.tick).cutoffPin = s.cutoffPin := by
  unfold State.tick; dsimp only; split_ifs <;> simp [State.setTimebase, State.tickDeadTimes]

@[simp] theorem State.tick_groups (s : State) :
    (s.tick).groups = s.groups := by
  unfold State.tick; dsimp only; split_ifs <;> simp [State.setTimebase, State.tickDeadTimes]

@[simp] theorem State.tick_cutoff (s : State) :
    (s.tick).cutoff = s.cutoff := by
  unfold State.tick; dsimp only; split_ifs <;> simp [State.setTimebase, State.tickDeadTimes]

@[simp] theorem State.tick_supervisor (s : State) :
    (s.tick).supervisor = s.supervisor := by
  unfold State.tick; dsimp only; split_ifs <;> simp [State.setTimebase, State.tickDeadTimes]

@[simp] theorem State.tick_label (s : State) :
    (s.tick).label = s.label := by
  unfold State.tick; dsimp only; split_ifs <;> simp [State.setTimebase, State.tickDeadTimes]

@[simp] theorem State.tick_rights (s : State) :
    (s.tick).rights = s.rights := by
  unfold State.tick; dsimp only; split_ifs <;> simp [State.setTimebase, State.tickDeadTimes]

@[simp] theorem State.tick_ports (s : State) :
    (s.tick).ports = s.ports := by
  unfold State.tick; dsimp only; split_ifs <;> simp [State.setTimebase, State.tickDeadTimes]

@[simp] theorem State.tick_arbiter (s : State) :
    (s.tick).arbiter = s.arbiter := by
  unfold State.tick; dsimp only; split_ifs <;> simp [State.setTimebase, State.tickDeadTimes]

@[simp] theorem State.tick_pending (s : State) :
    (s.tick).pending = s.pending := by
  unfold State.tick; dsimp only; split_ifs <;> simp [State.setTimebase, State.tickDeadTimes]

@[simp] theorem State.tick_attachment (s : State) (k : Master) :
    (s.tick).attachment k = s.attachment k := by
  simp only [State.attachment, State.port, State.tick_ports]

end Sys2Proof.Machine
end

