-- ==== Sys2Proof/Laws/Operands.lean ====
section
/-! SUPPORT. What each reader of a payload field refuses, and what the readers of whole payloads make of the fields in range. -/
namespace Sys2Proof.Machine

theorem indexOf_none {n : Nat} {b : Byte} : indexOf n b = none ↔ n ≤ b.toNat := by
  unfold indexOf
  split_ifs with h
  · simp only [false_iff]; omega
  · simp only [true_iff]; omega

theorem indexOf_some {n : Nat} {b : Byte} {i : Fin n} : indexOf n b = some i ↔ b.toNat = i.val := by
  unfold indexOf
  split_ifs with h
  · simp only [Option.some.injEq, Fin.ext_iff]
  · simp only [false_iff]; omega

theorem switchOf_none {b : Byte} : switchOf b = none ↔ 2 ≤ b.toNat := by
  unfold switchOf
  generalize b.toNat = n
  match n with
  | 0 => simp
  | 1 => simp
  | n + 2 => simp

theorem syncModeOf_none {b : Byte} : syncModeOf b = none ↔ 3 ≤ b.toNat := by
  unfold syncModeOf
  generalize b.toNat = n
  match n with
  | 0 => simp
  | 1 => simp
  | 2 => simp
  | n + 3 => simp

theorem captureModeOf_none {b : Byte} : captureModeOf b = none ↔ 2 ≤ b.toNat := by
  unfold captureModeOf
  generalize b.toNat = n
  match n with
  | 0 => simp
  | 1 => simp
  | n + 2 => simp

theorem edgeSelectOf_none {b : Byte} : edgeSelectOf b = none ↔ 3 ≤ b.toNat := by
  unfold edgeSelectOf
  generalize b.toNat = n
  match n with
  | 0 => simp
  | 1 => simp
  | 2 => simp
  | n + 3 => simp

theorem levelOf_none {b : Byte} : levelOf b = none ↔ 2 ≤ b.toNat := by
  unfold levelOf
  generalize b.toNat = n
  match n with
  | 0 => simp
  | 1 => simp
  | n + 2 => simp

theorem actionKindOf_none {b : Byte} : actionKindOf b = none ↔ 6 ≤ b.toNat := by
  unfold actionKindOf
  generalize b.toNat = n
  match n with
  | 0 => simp
  | 1 => simp
  | 2 => simp
  | 3 => simp
  | 4 => simp
  | 5 => simp
  | n + 6 => simp

theorem referenceOf_none {b : Byte} : referenceOf b = none ↔ 3 ≤ b.toNat := by
  unfold referenceOf
  generalize b.toNat = n
  match n with
  | 0 => simp
  | 1 => simp
  | 2 => simp
  | n + 3 => simp

theorem notifyOf_none {b : Byte} : notifyOf b = none ↔ 3 ≤ b.toNat := by
  unfold notifyOf
  generalize b.toNat = n
  match n with
  | 0 => simp
  | 1 => simp
  | 2 => simp
  | n + 3 => simp

theorem polarityOf_none {b : Byte} : polarityOf b = none ↔ 2 ≤ b.toNat := by
  unfold polarityOf
  generalize b.toNat = n
  match n with
  | 0 => simp
  | 1 => simp
  | n + 2 => simp

theorem safeLevelOf_none {b : Byte} : safeLevelOf b = none ↔ 3 ≤ b.toNat := by
  unfold safeLevelOf
  generalize b.toNat = n
  match n with
  | 0 => simp
  | 1 => simp
  | 2 => simp
  | n + 3 => simp

theorem pairModeOf_none {b : Byte} : pairModeOf b = none ↔ 2 ≤ b.toNat := by
  unfold pairModeOf
  generalize b.toNat = n
  match n with
  | 0 => simp
  | 1 => simp
  | n + 2 => simp

theorem filterLengthOf_none {b : Byte} : filterLengthOf b = none ↔ 16 ≤ b.toNat := by
  unfold filterLengthOf
  split_ifs with h
  · simp only [false_iff]; omega
  · simp only [true_iff]; omega

theorem intervalOf_none {w : BitVec 16} :
    intervalOf w = none ↔ ¬(w.toNat = 1 ∨ w.toNat = 8 ∨ w.toNat = 64 ∨ w.toNat = 512) := by
  unfold intervalOf
  generalize w.toNat = n
  split
  · simp
  · simp
  · simp
  · simp
  · next h1 h2 h3 h4 =>
    simp only [true_iff, not_or]
    exact ⟨fun h => h1 h, fun h => h2 h, fun h => h3 h, fun h => h4 h⟩

theorem intervalOf_some {w : BitVec 16} {k : Nat} (h : intervalOf w = some k) : k = w.toNat := by
  unfold intervalOf at h
  generalize w.toNat = n at *
  split at h <;> simp_all

theorem prescaleOf_none {w : BitVec 16} : prescaleOf w = none ↔ ¬(1 ≤ w.toNat ∧ w.toNat ≤ 256) := by
  unfold prescaleOf
  split_ifs with h <;> simp [h]

theorem framePeriodOf_none {w : BitVec 24} : framePeriodOf w = none ↔ w.toNat = 1 := by
  unfold framePeriodOf
  split_ifs with h <;> simp [h]

theorem deadTimeOf_none {w : BitVec 16} : deadTimeOf w = none ↔ 1024 ≤ w.toNat := by
  unfold deadTimeOf
  split_ifs with h
  · simp only [false_iff]; omega
  · simp only [true_iff]; omega

theorem masterSetOf_none {b : Byte} : masterSetOf b = none ↔ 16 ≤ b.toNat := by
  unfold masterSetOf
  split_ifs with h
  · simp only [false_iff]; omega
  · simp only [true_iff]; omega

/-! ### A value read, written back as its byte -/

theorem switchOf_code {b : Byte} {x} (h : switchOf b = some x) : flagCode x = b := by
  have hn : ¬2 ≤ b.toNat := fun hk => by rw [switchOf_none.mpr hk] at h; exact absurd h (by simp)
  unfold switchOf at h
  apply BitVec.eq_of_toNat_eq
  generalize b.toNat = n at *
  match n, hn, h with
  | 0, _, h => cases h; rfl
  | 1, _, h => cases h; rfl
  | n + 2, hn, _ => exact absurd (Nat.le_add_left _ _) hn

theorem syncModeOf_code {b : Byte} {x} (h : syncModeOf b = some x) : syncModeCode x = b := by
  have hn : ¬3 ≤ b.toNat := fun hk => by rw [syncModeOf_none.mpr hk] at h; exact absurd h (by simp)
  unfold syncModeOf at h
  apply BitVec.eq_of_toNat_eq
  generalize b.toNat = n at *
  match n, hn, h with
  | 0, _, h => cases h; rfl
  | 1, _, h => cases h; rfl
  | 2, _, h => cases h; rfl
  | n + 3, hn, _ => exact absurd (Nat.le_add_left _ _) hn

theorem captureModeOf_code {b : Byte} {x} (h : captureModeOf b = some x) : captureModeCode x = b := by
  have hn : ¬2 ≤ b.toNat := fun hk => by rw [captureModeOf_none.mpr hk] at h; exact absurd h (by simp)
  unfold captureModeOf at h
  apply BitVec.eq_of_toNat_eq
  generalize b.toNat = n at *
  match n, hn, h with
  | 0, _, h => cases h; rfl
  | 1, _, h => cases h; rfl
  | n + 2, hn, _ => exact absurd (Nat.le_add_left _ _) hn

theorem edgeSelectOf_code {b : Byte} {x} (h : edgeSelectOf b = some x) : edgeSelectCode x = b := by
  have hn : ¬3 ≤ b.toNat := fun hk => by rw [edgeSelectOf_none.mpr hk] at h; exact absurd h (by simp)
  unfold edgeSelectOf at h
  apply BitVec.eq_of_toNat_eq
  generalize b.toNat = n at *
  match n, hn, h with
  | 0, _, h => cases h; rfl
  | 1, _, h => cases h; rfl
  | 2, _, h => cases h; rfl
  | n + 3, hn, _ => exact absurd (Nat.le_add_left _ _) hn

theorem levelOf_code {b : Byte} {x} (h : levelOf b = some x) : levelCode x = b := by
  have hn : ¬2 ≤ b.toNat := fun hk => by rw [levelOf_none.mpr hk] at h; exact absurd h (by simp)
  unfold levelOf at h
  apply BitVec.eq_of_toNat_eq
  generalize b.toNat = n at *
  match n, hn, h with
  | 0, _, h => cases h; rfl
  | 1, _, h => cases h; rfl
  | n + 2, hn, _ => exact absurd (Nat.le_add_left _ _) hn

theorem polarityOf_code {b : Byte} {x} (h : polarityOf b = some x) : polarityCode x = b := by
  have hn : ¬2 ≤ b.toNat := fun hk => by rw [polarityOf_none.mpr hk] at h; exact absurd h (by simp)
  unfold polarityOf at h
  apply BitVec.eq_of_toNat_eq
  generalize b.toNat = n at *
  match n, hn, h with
  | 0, _, h => cases h; rfl
  | 1, _, h => cases h; rfl
  | n + 2, hn, _ => exact absurd (Nat.le_add_left _ _) hn

theorem safeLevelOf_code {b : Byte} {x} (h : safeLevelOf b = some x) : electricalCode x = b := by
  have hn : ¬3 ≤ b.toNat := fun hk => by rw [safeLevelOf_none.mpr hk] at h; exact absurd h (by simp)
  unfold safeLevelOf at h
  apply BitVec.eq_of_toNat_eq
  generalize b.toNat = n at *
  match n, hn, h with
  | 0, _, h => cases h; rfl
  | 1, _, h => cases h; rfl
  | 2, _, h => cases h; rfl
  | n + 3, hn, _ => exact absurd (Nat.le_add_left _ _) hn

theorem pairModeOf_code {b : Byte} {x} (h : pairModeOf b = some x) : pairModeCode x = b := by
  have hn : ¬2 ≤ b.toNat := fun hk => by rw [pairModeOf_none.mpr hk] at h; exact absurd h (by simp)
  unfold pairModeOf at h
  apply BitVec.eq_of_toNat_eq
  generalize b.toNat = n at *
  match n, hn, h with
  | 0, _, h => cases h; rfl
  | 1, _, h => cases h; rfl
  | n + 2, hn, _ => exact absurd (Nat.le_add_left _ _) hn

theorem nat8_toNat (b : Byte) : nat8 b.toNat = b := by simp [nat8]

theorem nat16_toNat (w : BitVec 16) : nat16 w.toNat = bytes16 w := by simp [nat16]

theorem nat8_index {n : Nat} {b : Byte} {i : Fin n} (h : b.toNat = i.val) : nat8 i.val = b := by
  rw [← h, nat8_toNat]

theorem filterLengthOf_some {b : Byte} {x : Nat} (h : filterLengthOf b = some x) : x = b.toNat := by
  unfold filterLengthOf at h
  split_ifs at h
  exact (Option.some.inj h).symm

theorem prescaleOf_some {w : BitVec 16} {x : Nat} (h : prescaleOf w = some x) : x = w.toNat := by
  unfold prescaleOf at h
  split_ifs at h
  exact (Option.some.inj h).symm

theorem deadTimeOf_some {w : BitVec 16} {x : Nat} (h : deadTimeOf w = some x) : x = w.toNat := by
  unfold deadTimeOf at h
  split_ifs at h
  exact (Option.some.inj h).symm

/-! ### Whole payloads -/

theorem captureSettingsOf_some {f : CapFields} {x : CaptureSettings} (h : captureSettingsOf f = some x) :
    captureModeOf f.mode = some x.mode ∧ edgeSelectOf f.edgeSelect = some x.edgeSelect ∧
      levelOf f.activeLevel = some x.activeLevel ∧ filterLengthOf f.filterLength = some x.length ∧
      intervalOf f.interval = some x.interval ∧ prescaleOf f.prescale = some x.prescale ∧
      switchOf f.gateEnable = some x.gateEnable := by
  unfold captureSettingsOf at h
  split at h
  · next h1 h2 h3 h4 h5 h6 h7 => cases h; exact ⟨h1, h2, h3, h4, h5, h6, h7⟩
  · exact absurd h (by simp)

/-- R28, check 3. -/
theorem captureSettingsOf_isSome {f : CapFields} :
    (captureSettingsOf f).isSome = true ↔
      f.mode.toNat ≤ 1 ∧ f.edgeSelect.toNat ≤ 2 ∧ f.activeLevel.toNat ≤ 1 ∧ f.filterLength.toNat ≤ 15 ∧
        (f.interval.toNat = 1 ∨ f.interval.toNat = 8 ∨ f.interval.toNat = 64 ∨ f.interval.toNat = 512) ∧
        1 ≤ f.prescale.toNat ∧ f.prescale.toNat ≤ 256 ∧ f.gateEnable.toNat ≤ 1 := by
  have a := captureModeOf_none (b := f.mode)
  have b := edgeSelectOf_none (b := f.edgeSelect)
  have c := levelOf_none (b := f.activeLevel)
  have d := filterLengthOf_none (b := f.filterLength)
  have e := intervalOf_none (w := f.interval)
  have g := prescaleOf_none (w := f.prescale)
  have k := switchOf_none (b := f.gateEnable)
  constructor
  · intro h
    obtain ⟨x, hx⟩ := Option.isSome_iff_exists.mp h
    obtain ⟨h1, h2, h3, h4, h5, h6, h7⟩ := captureSettingsOf_some hx
    simp only [h1, h2, h3, h4, h5, h6, h7, reduceCtorEq, false_iff, not_not] at a b c d e g k
    exact ⟨by omega, by omega, by omega, by omega, e, g.1, g.2, by omega⟩
  · rintro ⟨h1, h2, h3, h4, h5, h6, h7, h8⟩
    obtain ⟨x1, e1⟩ := Option.ne_none_iff_exists'.mp (mt a.mp (by omega))
    obtain ⟨x2, e2⟩ := Option.ne_none_iff_exists'.mp (mt b.mp (by omega))
    obtain ⟨x3, e3⟩ := Option.ne_none_iff_exists'.mp (mt c.mp (by omega))
    obtain ⟨x4, e4⟩ := Option.ne_none_iff_exists'.mp (mt d.mp (by omega))
    obtain ⟨x5, e5⟩ := Option.ne_none_iff_exists'.mp (mt e.mp (not_not.mpr h5))
    obtain ⟨x6, e6⟩ := Option.ne_none_iff_exists'.mp (mt g.mp (not_not.mpr ⟨h6, h7⟩))
    obtain ⟨x7, e7⟩ := Option.ne_none_iff_exists'.mp (mt k.mp (by omega))
    simp [captureSettingsOf, e1, e2, e3, e4, e5, e6, e7]

end Sys2Proof.Machine
end

