-- ==== Sys2Proof/Laws/Effects.lean ====
section
/-! SUPPORT. What the shared operations do to the parts they change: notices handed on, masters chosen, deliveries, removals; and
how one part's updates compose. -/
namespace Sys2Proof.Machine

/-! ### One part written twice, or with what it holds -/

@[simp] theorem State.setCapture_setCapture (s : State) (i : CapLine) (x y : CaptureLine) :
    (s.setCapture i x).setCapture i y = s.setCapture i y := by
  simp [State.setCapture]

@[simp] theorem State.setCapture_same (s : State) (i : CapLine) : s.setCapture i (s.capture i) = s := by
  cases s
  simp [State.setCapture, State.capture]

@[simp] theorem State.setGroup_setGroup (s : State) (i : GroupIx) (x y : CapSet) :
    (s.setGroup i x).setGroup i y = s.setGroup i y := by
  simp [State.setGroup]

@[simp] theorem State.setGroup_same (s : State) (i : GroupIx) : s.setGroup i (s.group i) = s := by
  cases s
  simp [State.setGroup, State.group]

@[simp] theorem State.setEntry_setEntry (s : State) (i : EntryIx) (x y : Entry) :
    (s.setEntry i x).setEntry i y = s.setEntry i y := by
  simp [State.setEntry]

@[simp] theorem State.setEntry_same (s : State) (i : EntryIx) : s.setEntry i (s.entry i) = s := by
  cases s
  simp [State.setEntry, State.entry]

@[simp] theorem State.setQueue_setQueue (s : State) (i : Master) (x y : NoticeQueue) :
    (s.setQueue i x).setQueue i y = s.setQueue i y := by
  simp [State.setQueue]

@[simp] theorem State.setQueue_same (s : State) (i : Master) : s.setQueue i (s.queue i) = s := by
  cases s
  simp [State.setQueue, State.queue]

@[simp] theorem State.setAction_setAction (s : State) (i : Slot) (x y : Option ActionRecord) :
    (s.setAction i x).setAction i y = s.setAction i y := by
  simp [State.setAction]

@[simp] theorem State.setAction_same (s : State) (i : Slot) : s.setAction i (s.action i) = s := by
  cases s
  simp [State.setAction, State.action]

@[simp] theorem State.setLine_setLine (s : State) (i : OutLine) (x y : OutputLine) :
    (s.setLine i x).setLine i y = s.setLine i y := by
  simp [State.setLine]

@[simp] theorem State.setLine_same (s : State) (i : OutLine) : s.setLine i (s.line i) = s := by
  cases s
  simp [State.setLine, State.line]

@[simp] theorem State.setPair_setPair (s : State) (i : PairIx) (x y : Pair) :
    (s.setPair i x).setPair i y = s.setPair i y := by
  simp [State.setPair]

@[simp] theorem State.setPair_same (s : State) (i : PairIx) : s.setPair i (s.pair i) = s := by
  cases s
  simp [State.setPair, State.pair]

@[simp] theorem State.setRight_setRight (s : State) (i : Master) (x y : Rights) :
    (s.setRight i x).setRight i y = s.setRight i y := by
  simp [State.setRight]

@[simp] theorem State.setRight_same (s : State) (i : Master) : s.setRight i (s.right i) = s := by
  cases s
  simp [State.setRight, State.right]

@[simp] theorem State.setPort_setPort (s : State) (i : Master) (x y : Port) :
    (s.setPort i x).setPort i y = s.setPort i y := by
  simp [State.setPort]

@[simp] theorem State.setPort_same (s : State) (i : Master) : s.setPort i (s.port i) = s := by
  cases s
  simp [State.setPort, State.port]

/-! ### What is read of the state a block finds: all but its port -/

@[simp] theorem State.front_targetRefusal (s : State) (k : Master) (m : Master) (x : Target) : (s.front k).targetRefusal m x = s.targetRefusal m x := by
  obtain ⟨p, h, -⟩ := s.front_eq k; rw [h]; rfl

@[simp] theorem State.front_freeSlot (s : State) (k : Master) : (s.front k).freeSlot = s.freeSlot := by
  obtain ⟨p, h, -⟩ := s.front_eq k; rw [h]; rfl

@[simp] theorem State.front_ownRecord (s : State) (k : Master) (m : Master) (x : Byte) : (s.front k).ownRecord m x = s.ownRecord m x := by
  obtain ⟨p, h, -⟩ := s.front_eq k; rw [h]; rfl

@[simp] theorem State.front_recordBytes (s : State) (k : Master) (n : Slot) (r : ActionRecord) : (s.front k).recordBytes n r = s.recordBytes n r := by
  obtain ⟨p, h, -⟩ := s.front_eq k; rw [h]; rfl

@[simp] theorem State.front_gateHandOff (s : State) (k : Master) (n : CapLine) (x : CaptureSettings) : (s.front k).gateHandOff n x = s.gateHandOff n x := by
  obtain ⟨p, h, -⟩ := s.front_eq k; rw [h]; rfl

@[simp] theorem State.front_captureSnapshot (s : State) (k : Master) (n : CapLine) : (s.front k).captureSnapshot n = s.captureSnapshot n := by
  obtain ⟨p, h, -⟩ := s.front_eq k; rw [h]; rfl

@[simp] theorem State.front_eventHandOffs (s : State) (k : Master) (n : CapLine) (t : Timestamp) (v : CaptureEvent) : (s.front k).eventHandOffs n t v = s.eventHandOffs n t v := by
  obtain ⟨p, h, -⟩ := s.front_eq k; rw [h]; rfl

@[simp] theorem State.front_groupHandOffs (s : State) (k : Master) (n : CapLine) (t : Timestamp) : (s.front k).groupHandOffs n t = s.groupHandOffs n t := by
  obtain ⟨p, h, -⟩ := s.front_eq k; rw [h]; rfl

@[simp] theorem State.front_restoreRefusal (s : State) (k : Master) (m : Master) (x : LineSet) : (s.front k).restoreRefusal m x = s.restoreRefusal m x := by
  obtain ⟨p, h, -⟩ := s.front_eq k; rw [h]; rfl

@[simp] theorem State.front_mayConfigurePin (s : State) (k : Master) (m : Master) : (s.front k).mayConfigurePin m = s.mayConfigurePin m := by
  obtain ⟨p, h, -⟩ := s.front_eq k; rw [h]; rfl

@[simp] theorem State.front_cutoffBytes (s : State) (k : Master) : (s.front k).cutoffBytes = s.cutoffBytes := by
  obtain ⟨p, h, -⟩ := s.front_eq k; rw [h]; rfl

@[simp] theorem State.front_cuts (s : State) (k : Master) (l : OutLine) : (s.front k).cuts l = s.cuts l := by
  obtain ⟨p, h, -⟩ := s.front_eq k; rw [h]; rfl

@[simp] theorem State.front_onCutLine (s : State) (k : Master) (r : ActionRecord) : (s.front k).onCutLine r = s.onCutLine r := by
  obtain ⟨p, h, -⟩ := s.front_eq k; rw [h]; rfl

@[simp] theorem State.front_mayRearm (s : State) (k : Master) : (s.front k).mayRearm = s.mayRearm := by
  obtain ⟨p, h, -⟩ := s.front_eq k; rw [h]; rfl

@[simp] theorem State.front_lineLevelByte (s : State) (k : Master) (e : EntryIx) : (s.front k).lineLevelByte e = s.lineLevelByte e := by
  obtain ⟨p, h, -⟩ := s.front_eq k; rw [h]; rfl

@[simp] theorem State.front_entryBytes (s : State) (k : Master) (e : EntryIx) : (s.front k).entryBytes e = s.entryBytes e := by
  obtain ⟨p, h, -⟩ := s.front_eq k; rw [h]; rfl

@[simp] theorem State.front_entryBytesRestricted (s : State) (k : Master) (e : EntryIx) : (s.front k).entryBytesRestricted e = s.entryBytesRestricted e := by
  obtain ⟨p, h, -⟩ := s.front_eq k; rw [h]; rfl

@[simp] theorem State.front_flagHandOff (s : State) (k : Master) (e : EntryIx) (c : EntrySettings) : (s.front k).flagHandOff e c = s.flagHandOff e c := by
  obtain ⟨p, h, -⟩ := s.front_eq k; rw [h]; rfl

@[simp] theorem State.front_writeAttempt (s : State) (k : Master) (e : EntryIx) (b : Bool) : (s.front k).writeAttempt e b = s.writeAttempt e b := by
  obtain ⟨p, h, -⟩ := s.front_eq k; rw [h]; rfl

@[simp] theorem State.front_affected (s : State) (k : Master) (m : Master) (x : Byte) : (s.front k).affected m x = s.affected m x := by
  obtain ⟨p, h, -⟩ := s.front_eq k; rw [h]; rfl

@[simp] theorem State.front_affectedSet (s : State) (k : Master) (m : Master) (x : Byte) : (s.front k).affectedSet m x = s.affectedSet m x := by
  obtain ⟨p, h, -⟩ := s.front_eq k; rw [h]; rfl

@[simp] theorem State.front_levelEntry (s : State) (k : Master) (e : EntryIx) : (s.front k).levelEntry e = s.levelEntry e := by
  obtain ⟨p, h, -⟩ := s.front_eq k; rw [h]; rfl

@[simp] theorem State.front_entryAsserted (s : State) (k : Master) (e : EntryIx) : (s.front k).entryAsserted e = s.entryAsserted e := by
  obtain ⟨p, h, -⟩ := s.front_eq k; rw [h]; rfl

@[simp] theorem State.front_depth (s : State) (k : Master) (m : Master) : (s.front k).depth m = s.depth m := by
  obtain ⟨p, h, -⟩ := s.front_eq k; rw [h]; rfl

@[simp] theorem State.front_programs (s : State) (k : Master) (m : Master) (e : EntryIx) : (s.front k).programs m e = s.programs m e := by
  obtain ⟨p, h, -⟩ := s.front_eq k; rw [h]; rfl

@[simp] theorem State.front_snapshot (s : State) (k : Master) : (s.front k).snapshot = s.snapshot := by
  obtain ⟨p, h, -⟩ := s.front_eq k; rw [h]; rfl

@[simp] theorem State.front_groupsOf (s : State) (k : Master) (n : CapLine) : (s.front k).groupsOf n = s.groupsOf n := by
  obtain ⟨p, h, -⟩ := s.front_eq k; rw [h]; rfl

@[simp] theorem State.front_complement (s : State) (k : Master) (p : PairIx) : (s.front k).complement p = s.complement p := by
  obtain ⟨p, h, -⟩ := s.front_eq k; rw [h]; rfl

@[simp] theorem State.front_complementB (s : State) (k : Master) (l : OutLine) : (s.front k).complementB l = s.complementB l := by
  obtain ⟨p, h, -⟩ := s.front_eq k; rw [h]; rfl

@[simp] theorem State.front_lead (s : State) (k : Master) (l : OutLine) : (s.front k).lead l = s.lead l := by
  obtain ⟨p, h, -⟩ := s.front_eq k; rw [h]; rfl

@[simp] theorem State.front_electrical (s : State) (k : Master) (l : OutLine) : (s.front k).electrical l = s.electrical l := by
  obtain ⟨p, h, -⟩ := s.front_eq k; rw [h]; rfl

@[simp] theorem State.front_held (s : State) (k : Master) (m : Master) : (s.front k).held m = s.held m := by
  obtain ⟨p, h, -⟩ := s.front_eq k; rw [h]; rfl

@[simp] theorem State.front_lineInUse (s : State) (k : Master) (l : OutLine) : (s.front k).lineInUse l = s.lineInUse l := by
  obtain ⟨p, h, -⟩ := s.front_eq k; rw [h]; rfl

@[simp] theorem State.front_quotaSum (s : State) (k : Master) : (s.front k).quotaSum = s.quotaSum := by
  obtain ⟨p, h, -⟩ := s.front_eq k; rw [h]; rfl

@[simp] theorem State.front_addressedLine (s : State) (k : Master) (x : Byte) : (s.front k).addressedLine x = s.addressedLine x := by
  obtain ⟨p, h, -⟩ := s.front_eq k; rw [h]; rfl

@[simp] theorem State.front_mayClaim (s : State) (k : Master) (m : Master) (l : OutLine) : (s.front k).mayClaim m l = s.mayClaim m l := by
  obtain ⟨p, h, -⟩ := s.front_eq k; rw [h]; rfl

@[simp] theorem State.front_pairCutEnable (s : State) (k : Master) (l : OutLine) : (s.front k).pairCutEnable l = s.pairCutEnable l := by
  obtain ⟨p, h, -⟩ := s.front_eq k; rw [h]; rfl

@[simp] theorem State.front_enableAnswer (s : State) (k : Master) (l : OutLine) : (s.front k).enableAnswer l = s.enableAnswer l := by
  obtain ⟨p, h, -⟩ := s.front_eq k; rw [h]; rfl

@[simp] theorem State.front_disableAnswer (s : State) (k : Master) (l : OutLine) : (s.front k).disableAnswer l = s.disableAnswer l := by
  obtain ⟨p, h, -⟩ := s.front_eq k; rw [h]; rfl

@[simp] theorem State.front_lineBytes (s : State) (k : Master) (l : OutLine) : (s.front k).lineBytes l = s.lineBytes l := by
  obtain ⟨p, h, -⟩ := s.front_eq k; rw [h]; rfl

@[simp] theorem State.front_pairRefusal (s : State) (k : Master) (m : Master) (p : PairIx) (x : PairMode) : (s.front k).pairRefusal m p x = s.pairRefusal m p x := by
  obtain ⟨p, h, -⟩ := s.front_eq k; rw [h]; rfl

@[simp] theorem State.front_together (s : State) (k : Master) (l j : OutLine) : (s.front k).together l j = s.together l j := by
  obtain ⟨p, h, -⟩ := s.front_eq k; rw [h]; rfl

@[simp] theorem State.front_wholePairs (s : State) (k : Master) (x : LineSet) : (s.front k).wholePairs x = s.wholePairs x := by
  obtain ⟨p, h, -⟩ := s.front_eq k; rw [h]; rfl

@[simp] theorem State.front_ownedLines (s : State) (k : Master) (m : Master) : (s.front k).ownedLines m = s.ownedLines m := by
  obtain ⟨p, h, -⟩ := s.front_eq k; rw [h]; rfl

@[simp] theorem State.front_anyCut (s : State) (k : Master) (x : LineSet) : (s.front k).anyCut x = s.anyCut x := by
  obtain ⟨p, h, -⟩ := s.front_eq k; rw [h]; rfl

@[simp] theorem State.front_labelBytes (s : State) (k : Master) : (s.front k).labelBytes = s.labelBytes := by
  obtain ⟨p, h, -⟩ := s.front_eq k; rw [h]; rfl

@[simp] theorem State.front_withdrawnLines (s : State) (k : Master) (c : RightsSettings) : (s.front k).withdrawnLines c = s.withdrawnLines c := by
  obtain ⟨p, h, -⟩ := s.front_eq k; rw [h]; rfl

@[simp] theorem State.front_withdrawnEntries (s : State) (k : Master) (c : RightsSettings) : (s.front k).withdrawnEntries c = s.withdrawnEntries c := by
  obtain ⟨p, h, -⟩ := s.front_eq k; rw [h]; rfl

@[simp] theorem State.front_rightsRefusal (s : State) (k : Master) (c : RightsSettings) : (s.front k).rightsRefusal c = s.rightsRefusal c := by
  obtain ⟨p, h, -⟩ := s.front_eq k; rw [h]; rfl

@[simp] theorem State.front_selects (s : State) (k : Master) (p : ActionRecord → Bool) (n : Slot) : (s.front k).selects p n = s.selects p n := by
  obtain ⟨p, h, -⟩ := s.front_eq k; rw [h]; rfl

@[simp] theorem State.front_countRecords (s : State) (k : Master) (p : ActionRecord → Bool) : (s.front k).countRecords p = s.countRecords p := by
  obtain ⟨p, h, -⟩ := s.front_eq k; rw [h]; rfl

@[simp] theorem State.front_runAnswer (s : State) (k : Master) : (s.front k).runAnswer = s.runAnswer := by
  obtain ⟨p, h, -⟩ := s.front_eq k; rw [h]; rfl

@[simp] theorem State.front_awaitingEntries (s : State) (k : Master) (m : Master) (p : Entry → Bool) : (s.front k).awaitingEntries m p = s.awaitingEntries m p := by
  obtain ⟨p, h, -⟩ := s.front_eq k; rw [h]; rfl

@[simp] theorem State.front_heldFor (s : State) (k : Master) (m : Master) : (s.front k).heldFor m = s.heldFor m := by
  obtain ⟨p, h, -⟩ := s.front_eq k; rw [h]; rfl

@[simp] theorem State.front_settled (s : State) (k : Master) : (s.front k).settled = s.settled := by
  obtain ⟨p, h, -⟩ := s.front_eq k; rw [h]; rfl

@[simp] theorem State.front_nextEnd (s : State) (k : Master) : (s.front k).nextEnd = s.nextEnd := by
  obtain ⟨p, h, -⟩ := s.front_eq k; rw [h]; rfl

@[simp] theorem State.front_nextFire (s : State) (k : Master) : (s.front k).nextFire = s.nextFire := by
  obtain ⟨p, h, -⟩ := s.front_eq k; rw [h]; rfl

@[simp] theorem State.front_endDue (s : State) (k : Master) (n : Slot) : (s.front k).endDue n = s.endDue n := by
  obtain ⟨p, h, -⟩ := s.front_eq k; rw [h]; rfl

@[simp] theorem State.front_fireDue (s : State) (k : Master) (n : Slot) : (s.front k).fireDue n = s.fireDue n := by
  obtain ⟨p, h, -⟩ := s.front_eq k; rw [h]; rfl

@[simp] theorem State.front_expiryDue (s : State) (k : Master) (p : PairIx) : (s.front k).expiryDue p = s.expiryDue p := by
  obtain ⟨p, h, -⟩ := s.front_eq k; rw [h]; rfl

@[simp] theorem State.front_entryNotice (s : State) (k : Master) (e : EntryIx) (t : Timestamp) (b : NoticeBody) : (s.front k).entryNotice e t b = s.entryNotice e t b := by
  obtain ⟨p, h, -⟩ := s.front_eq k; rw [h]; rfl

/-! ### Notices (R41, R77) -/

theorem State.hand_queue (s : State) (m : Master) (n : Notice) (k : Master) :
    (s.hand m n).queue k = if k = m ∧ s.attachment m = .attached then (s.queue k).takeIn n else s.queue k := by
  unfold State.hand
  by_cases h : s.attachment m = .attached
  · simp only [h, if_true, State.setQueue_queue, and_true]
    split
    · next e => rw [e]
    · rfl
  · simp [h]

theorem State.foldl_hand_queue (set : MasterSet) (n : Notice) (l : List Master) (hl : l.Nodup) (s : State) (k : Master) :
    (l.foldl (fun t m => if set.getLsbD m.val then t.hand m n else t) s).queue k =
      if k ∈ l ∧ set.getLsbD k.val = true ∧ s.attachment k = .attached then (s.queue k).takeIn n else s.queue k := by
  induction l generalizing s with
  | nil => simp
  | cons m l ih =>
    rw [List.foldl_cons, ih (List.nodup_cons.mp hl).2]
    have hm := (List.nodup_cons.mp hl).1
    by_cases hs : set.getLsbD m.val = true
    · simp only [hs, if_true, State.hand_attachment, State.hand_queue, List.mem_cons]
      by_cases hk : k = m
      · subst hk; simp only [hm, hs, false_and, if_false, true_or, true_and]
      · simp only [hk, false_or, false_and, if_false]
    · simp only [hs, Bool.false_eq_true, if_false, List.mem_cons]
      by_cases hk : k = m
      · subst hk; simp only [hm, hs, Bool.false_eq_true, false_and, and_false, if_false]
      · simp only [hk, false_or]

theorem State.handEach_queue (s : State) (set : MasterSet) (n : Notice) (k : Master) :
    (s.handEach set n).queue k =
      if set.getLsbD k.val = true ∧ s.attachment k = .attached then (s.queue k).takeIn n else s.queue k := by
  unfold State.handEach
  rw [State.foldl_hand_queue set n _ (List.nodup_finRange 4) s k]
  simp [List.mem_finRange]

@[simp] theorem State.handEach_entry (s : State) (set : MasterSet) (n : Notice) (e : EntryIx) :
    (s.handEach set n).entry e = s.entry e := by
  simp only [State.entry, State.handEach_entries]

/-! ### Choosing masters (R38 to R40) -/

theorem State.deliverable_iff (s : State) (e : EntryIx) (m : Master) :
    s.deliverable e m = true ↔ (s.entry e).destinations.getLsbD m.val = true ∧ s.attachment m = .attached := by
  unfold State.deliverable
  simp

/-- Being deliverable depends on the entry's destination set and the master's attachment state alone. -/
theorem State.deliverable_congr {s t : State} {e : EntryIx} (hd : (t.entry e).destinations = (s.entry e).destinations)
    (ha : ∀ m, t.attachment m = s.attachment m) (m : Master) : t.deliverable e m = s.deliverable e m := by
  rw [Bool.eq_iff_iff, State.deliverable_iff, State.deliverable_iff, hd, ha]

theorem State.chooseOne_some {s : State} {e : EntryIx} {m : Master} (h : s.chooseOne e = some m) :
    s.deliverable e m = true := by
  unfold State.chooseOne at h
  exact List.find?_some h

theorem rotation_covers (p m : Master) : m ∈ [p, p + 1, p + 2, p + 3] := by
  revert p m; decide

theorem State.chooseOne_none {s : State} {e : EntryIx} : s.chooseOne e = none ↔ ∀ m, s.deliverable e m = false := by
  unfold State.chooseOne
  rw [List.find?_eq_none]
  constructor
  · intro h m; simpa using h m (rotation_covers _ m)
  · intro h m _; simp [h m]

/-- Every chosen master is deliverable. -/
theorem State.choose_deliverable {s : State} {e : EntryIx} {m : Master} (h : (s.choose e).1.getLsbD m.val = true) :
    s.deliverable e m = true := by
  unfold State.choose at h
  split at h
  · rwa [State.chooseAll, setOf_getLsbD] at h
  · split at h
    · next k hk =>
      rw [single_getLsbD] at h
      simp only [Bool.and_eq_true, decide_eq_true_eq] at h
      have : m = k := Fin.ext h.2
      exact this ▸ State.chooseOne_some hk
    · simp at h

/-- Nobody is chosen exactly when nobody is deliverable. -/
theorem State.choose_empty {s : State} {e : EntryIx} : (s.choose e).1 = 0#4 ↔ ∀ m, s.deliverable e m = false := by
  constructor
  · intro h m
    unfold State.choose at h
    split at h
    · have : (s.chooseAll e).getLsbD m.val = false := by dsimp only at h; rw [h]; simp
      rwa [State.chooseAll, setOf_getLsbD] at this
    · split at h
      · next k hk =>
        have : (single k.val : BitVec 4).getLsbD k.val = false := by dsimp only at h; rw [h]; simp
        rw [single_getLsbD] at this
        simp at this
      · next hk => exact State.chooseOne_none.mp hk m
  · intro h
    unfold State.choose
    split
    · apply BitVec.eq_of_getLsbD_eq
      intro i hi
      simpa [State.chooseAll, h] using setOf_getLsbD (fun m => s.deliverable e m) ⟨i, hi⟩
    · rw [State.chooseOne_none.mpr h]

/-! ### Deliveries (R42, R44) -/

/-- Everything an edge delivery does to the entries: nothing, or its own rotation pointer. -/
theorem State.edgeEvent_entry (s : State) (e : EntryIx) (t : Timestamp) (b : NoticeBody) (k : EntryIx) :
    (s.edgeEvent e t b).entry k =
      if k = e ∧ (s.entry e).masked = false then { s.entry e with rotation := (s.choose e).2 } else s.entry k := by
  unfold State.edgeEvent
  dsimp only
  cases hm : (s.entry e).masked
  · simp only [Bool.false_eq_true, if_false, and_true]
    split_ifs with h1 h2 h2
    · subst h2
      have hc : (s.choose k).2 = (s.entry k).rotation := by
        have := State.choose_empty.mp h1
        unfold State.choose
        split
        · rfl
        · rw [State.chooseOne_none.mpr this]
      rw [hc, ← hm]
    · rfl
    · simp [h2]
    · simp [h2]
  · simp

/-- Everything an edge delivery does to the queues: one notice to each chosen master. -/
theorem State.edgeEvent_queue (s : State) (e : EntryIx) (t : Timestamp) (b : NoticeBody) (m : Master) :
    (s.edgeEvent e t b).queue m =
      if (s.entry e).masked = false ∧ (s.choose e).1.getLsbD m.val = true then
        (s.queue m).takeIn (s.entryNotice e t b)
      else s.queue m := by
  unfold State.edgeEvent
  dsimp only
  cases hm : (s.entry e).masked
  · simp only [Bool.false_eq_true, if_false, true_and]
    by_cases h : (s.choose e).1 = 0#4
    · simp [h]
    · simp only [h, if_false, State.handEach_queue, State.setEntry_attachment, State.setEntry_queue]
      by_cases hc : (s.choose e).1.getLsbD m.val = true
      · have := ((State.deliverable_iff s e m).mp (State.choose_deliverable hc)).2
        simp only [hc, this, and_self, if_true]
      · simp only [hc, false_and, if_false, Bool.false_eq_true]
  · simp

/-- A delivery attempt's entry (R44). -/
theorem State.attempt_entry (s : State) (e : EntryIx) (t : Timestamp) (k : EntryIx) :
    (s.attempt e t).entry k =
      if k = e then
        if (s.choose e).1 = 0#4 then { s.entry e with awaiting := 0#4, timer := none, status := .held }
        else
          { s.entry e with
            awaiting := (s.choose e).1
            rotation := (s.choose e).2
            timer := if (s.entry e).deadline.toNat = 0 then none else some ⟨(s.entry e).deadline.toNat, false⟩
            status := .inService }
      else s.entry k := by
  unfold State.attempt
  dsimp only
  split_ifs <;> simp [*]

/-- A delivery attempt's notices: one to each chosen master. -/
theorem State.attempt_queue (s : State) (e : EntryIx) (t : Timestamp) (m : Master) :
    (s.attempt e t).queue m =
      if (s.choose e).1.getLsbD m.val = true then (s.queue m).takeIn (s.entryNotice e t .levelEvent) else s.queue m := by
  unfold State.attempt
  dsimp only
  by_cases h : (s.choose e).1 = 0#4
  · simp [h]
  · simp only [h, if_false, State.handEach_queue, State.setEntry_attachment, State.setEntry_queue]
    by_cases hc : (s.choose e).1.getLsbD m.val = true
    · have := ((State.deliverable_iff s e m).mp (State.choose_deliverable hc)).2
      simp only [hc, this, and_self, if_true]
    · simp only [hc, false_and, if_false, Bool.false_eq_true]

/-! ### Removals (R109) -/

theorem State.foldl_cancel_queue (s : State) (p : ActionRecord → Bool) (reason : CancelReason) (t : Timestamp)
    (l : List Slot) (u : State) (hu : ∀ k, u.attachment k = s.attachment k) (m : Master) :
    (l.foldl
        (fun u n =>
          match s.action n with
          | some r => if p r then u.hand r.owner (actionCancelled n r reason t) else u
          | none => u) u).queue m =
      l.foldl
        (fun q n =>
          match s.action n with
          | some r =>
            if p r = true ∧ r.owner = m ∧ s.attachment m = .attached then q.takeIn (actionCancelled n r reason t) else q
          | none => q) (u.queue m) := by
  induction l generalizing u with
  | nil => rfl
  | cons n l ih =>
    rw [List.foldl_cons, List.foldl_cons]
    cases hn : s.action n with
    | none => exact ih u hu
    | some r =>
      dsimp only
      by_cases hp : p r = true
      · rw [if_pos hp, ih _ fun k => by rw [State.hand_attachment, hu], State.hand_queue, hu]
        by_cases hm : r.owner = m
        · subst hm; simp [hp]
        · simp [hm, Ne.symm hm]
      · rw [if_neg hp, ih u hu]
        simp [hp]

/-- The notices of a removal, queue by queue, in ascending slot order (R109). -/
theorem State.notifyCancelled_queue (s : State) (p : ActionRecord → Bool) (reason : CancelReason) (t : Timestamp)
    (m : Master) :
    (s.notifyCancelled p reason t).queue m =
      (List.finRange 32).foldl
        (fun q n =>
          match s.action n with
          | some r =>
            if p r = true ∧ r.owner = m ∧ s.attachment m = .attached then q.takeIn (actionCancelled n r reason t) else q
          | none => q) (s.queue m) :=
  State.foldl_cancel_queue s p reason t _ s (fun _ => rfl) m

@[simp] theorem State.notifyCancelled_action (s : State) (p : ActionRecord → Bool) (reason : CancelReason) (t : Timestamp)
    (n : Slot) : (s.notifyCancelled p reason t).action n = s.action n := by
  simp only [State.action, State.notifyCancelled_actions]

/-- A removal leaves the records its condition does not select. -/
theorem State.cancelRecords_action (s : State) (p : ActionRecord → Bool) (reason : CancelReason) (t : Timestamp)
    (n : Slot) :
    (s.cancelRecords p reason t).action n =
      match s.action n with
      | some r => if p r then none else some r
      | none => none := by
  unfold State.cancelRecords
  rw [State.dropRecords_action, State.notifyCancelled_action]
  all_goals rfl

/-! ### Completions (R97) -/

@[simp] theorem State.hand_action (s : State) (m : Master) (x : Notice) (k : Slot) : (s.hand m x).action k = s.action k := by
  simp only [State.action, State.hand_actions]

/-- The slots after a completion: the record re-armed or removed, and no other. -/
theorem State.complete_action (s : State) (n : Slot) (r : ActionRecord) (t : Timestamp) (k : Slot) :
    (s.complete n r t).action k =
      if k = n then if r.counted.repeats then some r.counted.rearm else none else s.action k := by
  unfold State.complete
  dsimp only
  cases r.counted.repeats
  · simp only [Bool.false_eq_true, if_false]
    split_ifs <;> simp_all
  · simp only [if_true]
    split_ifs <;> simp_all

/-- The queues after a completion: the ACTION_DONE notice that notify asks for, and no other. -/
theorem State.complete_queue (s : State) (n : Slot) (r : ActionRecord) (t : Timestamp) (m : Master) :
    (s.complete n r t).queue m =
      if m = r.owner ∧ s.attachment m = .attached ∧
          (r.notify = .each ∨ (r.notify = .last ∧ r.counted.repeats = false)) then
        (s.queue m).takeIn (actionDone n r.counted t)
      else s.queue m := by
  unfold State.complete
  dsimp only
  by_cases hm : m = r.owner
  · subst hm
    cases r.counted.repeats <;> cases r.notify <;> simp [State.hand_queue]
  · cases r.counted.repeats <;> cases r.notify <;> simp [State.hand_queue, hm]

/-! ### Qualified changes (R21 to R27) -/

theorem State.eventHandOffs_captures (s : State) {n : CapLine} {t : Timestamp} {v : CaptureEvent} {g : State → State}
    (hg : g ∈ s.eventHandOffs n t v) (u : State) : (g u).captures = u.captures := by
  unfold State.eventHandOffs at hg
  rcases List.mem_append.mp hg with hg | hg
  · rw [List.mem_singleton.mp hg]; simp
  · split at hg
    · rw [List.mem_singleton.mp hg]; simp
    · simp at hg

/-- A qualified change reaches one capture line, its own. -/
theorem State.qualifiedChange_captures (s : State) (n : CapLine) (t : Timestamp) :
    (s.qualifiedChange n t).captures =
      (s.setCapture n
        (if (s.capture n).qualify.2.isSome then (s.capture n).qualify.1.stamp t else (s.capture n).qualify.1)).captures := by
  unfold State.qualifiedChange
  split
  · next c hc =>
    rw [hc]
    exact State.inAnyOrder_field State.captures (fun _ => rfl) fun g hg u => s.groupHandOffs_captures hg u
  · next c v hc =>
    rw [hc]
    refine State.inAnyOrder_field State.captures (fun _ => rfl) fun g hg u => ?_
    rcases List.mem_append.mp hg with hg | hg
    · exact s.groupHandOffs_captures hg u
    · exact s.eventHandOffs_captures hg u

/-- The one line a sample that completes qualification changes (R19, R22 to R27). -/
theorem State.sampleCapture_captures (s : State) (n : CapLine) (x : Level) (h : (s.capture n).filter.qualifies x = true) :
    (s.sampleCapture n x).captures =
      (s.setCapture n
        (let r := ({ s.capture n with filter := (s.capture n).filter.take x } : CaptureLine).qualify
         if r.2.isSome then r.1.stamp s.now else r.1)).captures := by
  unfold State.sampleCapture
  dsimp only
  rw [if_pos h, State.qualifiedChange_captures]
  simp [State.setCapture, State.capture]
  rfl

/-! ### Lines, pairs and slots found by a condition -/

/-- R123: the lines that act with a line are itself and the other line of its COMPLEMENT pair. -/
theorem State.together_eq (s : State) (l k : OutLine) :
    s.together l k = (k == l || (s.complement (pairOf l) && pairOf k == pairOf l)) := by
  have key : ∀ (cl ck : Bool) (l k : OutLine), (pairOf k = pairOf l → cl = ck) →
      ((if ck then lineA (pairOf k) else k) == (if cl then lineA (pairOf l) else l)) =
        (k == l || (cl && pairOf k == pairOf l)) := by decide
  exact key (s.complement (pairOf l)) (s.complement (pairOf k)) l k fun h => by rw [h]

/-- R120, R127: a pair moving toward a side, with and without a dead time, and the logical levels R126 fixes. -/
theorem State.handOver_eq (s : State) (p : PairIx) (side : Side) :
    s.handOver p side =
      ((s.setPair p
        { s.pair p with
          state := some
            (if (s.pair p).deadTime = 0 then (match side with | .a => .aActive | .b => .bActive)
             else (match side with | .a => .deadToA | .b => .deadToB))
          record := if (s.pair p).deadTime = 0 then none else some ⟨side, (s.pair p).deadTime, false⟩ }).setLine
        (lineA p) { s.line (lineA p) with active := side == .a }).setLine
        (lineB p) { s.line (lineB p) with active := side == .b } := by
  unfold State.handOver
  cases hd : (s.pair p).deadTime <;> cases side <;> simp [hd, PairState.logical] <;> rfl

@[simp] theorem pairOf_lineA (p : PairIx) : pairOf (lineA p) = p := by revert p; decide

@[simp] theorem pairOf_lineB (p : PairIx) : pairOf (lineB p) = p := by revert p; decide

theorem lineA_ne_lineB (p : PairIx) : lineA p ≠ lineB p := by revert p; decide

theorem line_of_pair (l : OutLine) : l = lineA (pairOf l) ∨ l = lineB (pairOf l) := by revert l; decide

theorem State.pairs_ext {s t : State} (h : ∀ p, t.pair p = s.pair p) : t.pairs = s.pairs := by
  apply Vector.ext
  intro i hi
  exact h ⟨i, hi⟩

/-- R123: the pair state a change of a line discards is that of its own COMPLEMENT pair. -/
theorem State.clearPairs_together (s : State) (l : OutLine) :
    s.clearPairs (s.together l) =
      if s.complement (pairOf l) then s.setPair (pairOf l) (s.pair (pairOf l)).cleared else s := by
  have h : ∀ p, (s.clearPairs (s.together l)).pair p =
      (if s.complement (pairOf l) then s.setPair (pairOf l) (s.pair (pairOf l)).cleared else s).pair p := by
    intro p
    rw [State.clearPairs_pair, State.together_eq, pairOf_lineA]
    by_cases hp : p = pairOf l
    · subst hp
      cases hc : s.complement (pairOf l) <;> simp
    · have hl : (lineA p == l) = false := by
        rw [beq_eq_false_iff_ne]
        rintro rfl
        exact hp (pairOf_lineA p).symm
      have hq : (p == pairOf l) = false := by rw [beq_eq_false_iff_ne]; exact hp
      cases hc : s.complement (pairOf l) <;> simp [hl, hq, hp]
  have e := State.pairs_ext h
  cases hc : s.complement (pairOf l)
  · rw [hc] at e
    unfold State.clearPairs at e ⊢
    simp only [Bool.false_eq_true, if_false] at e ⊢
    rw [e]
  · rw [hc] at e
    unfold State.clearPairs State.setPair at e ⊢
    simp only [if_true] at e ⊢
    rw [e]

theorem State.mayClaim_false {s : State} {m : Master} {l : OutLine} :
    s.mayClaim m l = false ↔ ∃ k, s.together l k = true ∧ (s.right m).lines.getLsbD k.val = false := by
  unfold State.mayClaim
  rw [← Bool.not_eq_true, List.all_eq_true]
  simp [List.mem_finRange]

theorem State.lineInUse_iff {s : State} {l : OutLine} :
    s.lineInUse l = true ↔ ∃ n r, s.action n = some r ∧ r.target = .output l := by
  unfold State.lineInUse
  rw [List.any_eq_true]
  constructor
  · rintro ⟨n, _, h⟩
    split at h
    · next r hr => exact ⟨n, r, hr, by simpa [ActionRecord.onLine] using h⟩
    · simp at h
  · rintro ⟨n, r, hr, h⟩
    exact ⟨n, List.mem_finRange _, by rw [hr]; simpa [ActionRecord.onLine] using h⟩

theorem State.anyCut_iff {s : State} {lines : LineSet} :
    s.anyCut lines = true ↔ ∃ l : OutLine, lines.getLsbD l.val = true ∧ (s.line l).drive = .cut := by
  unfold State.anyCut
  rw [List.any_eq_true]
  simp [List.mem_finRange]

theorem State.addressedLine_of {s : State} {line : Byte} {l : OutLine} (h : line.toNat = l.val) :
    s.addressedLine line = if s.complementB l then none else some l := by
  simp only [State.addressedLine, indexOf_some.mpr h]

theorem State.addressedLine_unknown {s : State} {line : Byte} (h : 8 ≤ line.toNat) : s.addressedLine line = none := by
  simp only [State.addressedLine, indexOf_none.mpr h]

/-- The lowest slot of which a condition holds is the one found. -/
theorem find_slot {p : Slot → Bool} {n : Slot} (h : p n = true) (hk : ∀ k, k < n → p k = false) :
    (List.finRange 32).find? p = some n := by
  rw [List.find?_eq_some_iff_append]
  refine ⟨h, (List.finRange 32).take n.val, (List.finRange 32).drop (n.val + 1), ?_, ?_⟩
  · have h1 := List.take_append_drop n.val (List.finRange 32)
    have h2 : (List.finRange 32).drop n.val = n :: (List.finRange 32).drop (n.val + 1) := by
      rw [List.drop_eq_getElem_cons (by simp)]
      simp
    rw [h2] at h1
    exact h1.symm
  · intro k hm
    have hlt : k < n := by
      rw [List.mem_take_iff_getElem] at hm
      obtain ⟨j, hj, e⟩ := hm
      simp at e hj
      rw [← e]
      exact hj
    simp [hk k hlt]

/-- A slot found is the lowest of which the condition holds. -/
theorem find_slot_least {p : Slot → Bool} {n : Slot} (hf : (List.finRange 32).find? p = some n) :
    p n = true ∧ ∀ k, k < n → p k = false := by
  refine ⟨List.find?_some hf, fun k hk => ?_⟩
  rw [List.find?_eq_some_iff_append] at hf
  obtain ⟨_, as, bs, h1, h2⟩ := hf
  have hp : (List.finRange 32).Pairwise (· < ·) := List.pairwise_lt_finRange 32
  have hm := List.mem_finRange k
  rw [h1] at hm hp
  have hn : k ∈ as := by
    rcases List.mem_append.mp hm with hm | hm
    · exact hm
    · rw [List.pairwise_append] at hp
      rcases List.mem_cons.mp hm with rfl | hm
      · exact absurd hk (lt_irrefl _)
      · exact absurd (lt_trans hk ((List.pairwise_cons.mp hp.2.1).1 k hm)) (lt_irrefl _)
  simpa using h2 k hn

theorem find_slot_iff {p : Slot → Bool} {n : Slot} :
    (List.finRange 32).find? p = some n ↔ p n = true ∧ ∀ k, k < n → p k = false :=
  ⟨find_slot_least, fun h => find_slot h.1 h.2⟩

/-! ### What comes next at an announced count (R98) -/

/-- An end is due while RUNNING, at the end time of an ACTIVE record. -/
theorem State.endDue_iff {s : State} {n : Slot} :
    s.endDue n = true ↔ s.timebase.run = .running ∧ ∃ r, s.action n = some r ∧ r.phase = .active s.timebase.count := by
  unfold State.endDue State.selects
  rw [Bool.and_eq_true, beq_iff_eq]
  cases h : s.action n with
  | none => simp
  | some r => cases hp : r.phase <;> simp [ActionRecord.isActive, ActionRecord.nextTime, hp]

/-- A firing is due while RUNNING, at the due time of an ARMED record. -/
theorem State.fireDue_iff {s : State} {n : Slot} :
    s.fireDue n = true ↔
      s.timebase.run = .running ∧ ∃ r, s.action n = some r ∧ r.phase = .armed ∧ r.due = s.timebase.count := by
  unfold State.fireDue State.selects
  rw [Bool.and_eq_true, beq_iff_eq]
  cases h : s.action n with
  | none => simp
  | some r => cases hp : r.phase <;> simp [ActionRecord.isActive, ActionRecord.nextTime, hp]

/-- A dead time runs out while RUNNING. -/
theorem State.expiryDue_iff {s : State} {p : PairIx} :
    s.expiryDue p = true ↔ s.timebase.run = .running ∧ ∃ r, (s.pair p).record = some r ∧ r.expiring = true := by
  unfold State.expiryDue Pair.expiring
  rw [Bool.and_eq_true, beq_iff_eq]
  cases h : (s.pair p).record <;> simp

theorem State.nextEnd_some {s : State} {n : Slot} :
    s.nextEnd = some n ↔ s.endDue n = true ∧ ∀ k, k < n → s.endDue k = false := find_slot_iff

theorem State.nextEnd_none {s : State} : s.nextEnd = none ↔ ∀ n, s.endDue n = false := by
  unfold State.nextEnd
  rw [List.find?_eq_none]
  simp [List.mem_finRange]

theorem State.nextFire_some {s : State} {n : Slot} :
    s.nextFire = some n ↔ (∀ k, s.endDue k = false) ∧ s.fireDue n = true ∧ ∀ k, k < n → s.fireDue k = false := by
  unfold State.nextFire
  rw [← State.nextEnd_none, ← find_slot_iff]
  cases s.nextEnd <;> simp

theorem State.settled_iff {s : State} :
    s.settled = true ↔
      (∀ p, s.expiryDue p = false) ∧ ∀ n, s.endDue n = false ∧ s.fireDue n = false := by
  unfold State.settled
  simp [List.any_eq_false, List.mem_finRange]

/-- While HALTED nothing is left to be taken (R94, R106, R128). -/
theorem State.settled_halted {s : State} (h : s.timebase.run = .halted) : s.settled = true := by
  simp [State.settled_iff, State.expiryDue, State.endDue, State.fireDue, h]

theorem State.settle_settled {s : State} (h : s.settled = true) : s.settle = s := by
  unfold State.settle
  rw [if_pos h]

theorem State.foldl_fixed {β : Type} {g : State → β → State} {s : State} (l : List β) (h : ∀ b, g s b = s) :
    l.foldl g s = s := by
  induction l with
  | nil => rfl
  | cons b l ih => rw [List.foldl_cons, h, ih]

/-- What the last announced count has left is taken in the order of takeAll; in a settled state that changes nothing. -/
theorem State.settle_eq_takeAll (s : State) : s.settle = s.takeAll := by
  unfold State.settle
  split_ifs with h
  · obtain ⟨hp, hn⟩ := State.settled_iff.mp h
    unfold State.takeAll
    dsimp only
    have hf : s.nextFire ≠ none → False := by
      intro hf
      obtain ⟨n, e⟩ := Option.ne_none_iff_exists'.mp hf
      have := (State.nextFire_some.mp e).2.1
      rw [(hn n).2] at this
      exact absurd this (by decide)
    rw [State.foldl_fixed (g := State.expireDeadTime) _ fun p => by simp [State.expireDeadTime, hp p],
      State.foldl_fixed (g := State.takeEnd) _ fun n => by
        simp [State.takeEnd, State.nextEnd_none.mpr fun n => (hn n).1],
      State.foldl_fixed (g := State.takeFire) _ fun n => by
        unfold State.takeFire
        rw [if_neg fun e => hf (by rw [e]; simp)]]
  · rfl

end Sys2Proof.Machine
end

