-- ==== Sys2Proof/Tests/Slice0.lean ====
section
/-! SUPPORT. Small checks on fixed values: what the well-formedness check refuses, words of the codec written out from the spec, one
step of each family of commands, and for each statement a state and operands that meet its hypotheses together. -/
namespace Sys2Proof.Tests

open Sys2Proof Sys2Proof.Machine

set_option Elab.async false

/-! ### Ill-formed terms (R157) -/

theorem test_request_frame_without_a_byte_is_ill_formed : (Instr.requestFrame 0 []).wellFormed = false := by decide
theorem test_request_frame_from_0x80_is_ill_formed : (Instr.requestFrame 3 [0x80#8, 0x00#8]).wellFormed = false := by decide
theorem test_first_byte_0x80_is_ill_formed : (Instr.requestFirstByte 1 0x80#8).wellFormed = false := by decide
theorem test_request_frame_is_well_formed : (Instr.requestFrame 0 [0x05#8]).wellFormed = true := by decide
theorem test_first_byte_is_well_formed : (Instr.requestFirstByte 1 0x05#8).wellFormed = true := by decide

/-! ### Requests written out from R172, R173, R177 to R179 -/

theorem test_status_frame : requestFrameBytes 0x05#8 [] = [0x05#8, 0x00#8, 0x96#8] := by decide +kernel
theorem test_status_frame_is_valid : frameProblem [0x05#8, 0x00#8, 0x96#8] = none := by decide +kernel
theorem test_wrong_crc_is_a_problem : frameProblem [0x05#8, 0x00#8, 0x97#8] ≠ none := by decide +kernel
theorem test_length_byte_49_is_a_problem :
    frameProblem (requestFrameBytes 0x05#8 (List.replicate 49 0x00#8)) ≠ none := by decide +kernel
theorem test_two_bytes_are_a_problem : frameProblem [0x05#8, 0x00#8] ≠ none := by decide +kernel
theorem test_decode_attach : decodeRequest 2 0x01#8 [] = some (.attach 2) := by decide
theorem test_decode_attach_with_a_byte : decodeRequest 2 0x01#8 [0x00#8] = none := by decide
theorem test_decode_unlisted_code : decodeRequest 0 0x07#8 [] = none := by decide
theorem test_decode_tb_config :
    decodeRequest 0 0x10#8 [0x0F#8, 0x34#8, 0x12#8, 0x56#8, 0x34#8, 0x12#8, 0x01#8, 0x78#8, 0x56#8, 0x34#8, 0x12#8] =
      some (.tbConfig 0 ⟨0x0F#8, 0x1234#16, 0x123456#24, 0x01#8, 0x12345678#32⟩) := by decide
theorem test_decode_entry_write :
    decodeRequest 1 0x20#8 [0x0F#8, 0x06#8, 0x03#8, 0xAA#8, 0x02#8, 0x01#8] =
      some (.entryWrite 1 ⟨0x0F#8, 0x06#8, 0x03#8, 0xAA#8, 0x0102#16⟩) := by decide
theorem test_decode_group_config :
    decodeRequest 1 0x1B#8 [0x03#8, 0x01#8, 0x80#8] = some (.groupConfig 1 0x03#8 0x8001#16) := by decide
theorem test_decode_act_cancel : decodeRequest 3 0x32#8 [0x1F#8] = some (.actCancel 3 0x1F#8) := by decide
theorem test_decode_pair_config :
    decodeRequest 0 0x3E#8 [0x03#8, 0x01#8, 0xFF#8, 0x03#8] = some (.pairConfig 0 ⟨0x03#8, 0x01#8, 0x03FF#16⟩) := by
  decide
theorem test_decode_cut_restore : decodeRequest 0 0x41#8 [0x81#8] = some (.cutRestore 0 0x81#8) := by decide
theorem test_decode_fetch : decodeRequest 0 0x28#8 [] = some (.fetch 0) := by decide
theorem test_decode_rights_write :
    decodeRequest 2 0x09#8 [0x01#8, 0xFF#8, 0x00#8, 0x80#8, 0x03#8, 0x20#8, 0x01#8] =
      some (.rightsWrite 2 ⟨0x01#8, 0x8000FF#24, 0x03#8, 0x20#8, 0x01#8⟩) := by decide

/-! ### States the tests start from -/

/-- The state a step leaves. -/
def after (i : Instr) (s : State) : State :=
  match exec i s with
  | .next t => t
  | _ => s

def portIn (a : Attachment) : Port := { Port.reset with attachment := a }

/-- M0 and M2 are ATTACHED, M1 is SUSPENDED, M3 is DETACHED, and M2 is the supervisor. -/
def base : State :=
  { State.reset with
    ports := ⟨#[portIn .attached, portIn .suspended, portIn .attached, portIn .detached], rfl⟩
    supervisor := some 2 }

/-- RESET held low, with M1's chip-select low. -/
def inReset : State := { base.setPort 1 { base.port 1 with selected := true } with resetHeld := true }

/-- The Timebase RUNNING with a frame of three ticks, its phase as given. -/
def running (phase : Nat) : State :=
  base.setTimebase { Timebase.reset with run := .running, framePeriod := 3, phase := phase }

/-- CL0 sampled once, with a filter of length 1 and the run count given. -/
def sampled (run : Nat) : State :=
  base.setCapture 0 { CaptureLine.reset with filter := { Filter.reset with length := 1, run := run, loaded := true } }

/-- CL0 asserted in LEVEL mode, its entry IN_SERVICE at M0 with tag 7 and the timer given. -/
def inService (timer : Option DeadlineTimer) : State :=
  (base.setCapture 0
      { CaptureLine.reset with
        mode := .level
        filter := { Filter.reset with level := .high, loaded := true } }).setEntry 0
    { Entry.reset with
      masked := false
      destinations := 0b0001#4
      tag := 7#8
      awaiting := 0b0001#4
      timer := timer
      status := .inService }

/-- Line l in a drive state under M0, cut-enabled. -/
def owned (l : OutLine) (d : Drive) : State :=
  base.setLine l { OutputLine.reset with owner := some 0, drive := d, cutEnable := true }

/-- A record of M0 on OL0. -/
def record (k : ActionKind) (phase : ActionPhase) : ActionRecord where
  owner := 0
  kind := k
  target := .output 0
  due := 5
  phase := phase
  widthA := if k = .pulse then some 2 else none
  widthB := none
  nextWidth := .a
  period := 10
  repeatCount := 0
  remaining := none
  firings := 0
  notify := .each
  tag := 9#8
  staged := none

/-- OL0 DRIVEN by M0, count 5 announced, and the record in slot 31. -/
def scheduled (r : ActionRecord) : State :=
  ((owned 0 .driven).setTimebase
    { Timebase.reset with run := .running, count := 5, announced := ⟨0, 5⟩ }).setAction 31 (some r)

/-- Pair 0 COMPLEMENT and DRIVEN by M0 with a dead time of 2, in the pair state and with the record given; RUNNING. -/
def bridge (ps : PairState) (d : Option DeadTimeRecord) : State :=
  ((((owned 0 .driven).setLine 1 { OutputLine.reset with owner := some 0, drive := .driven, cutEnable := true }).setLine 0
      { (owned 0 .driven).line 0 with active := ps.logical .a }).setPair 0 ⟨.complement, 2, some ps, d⟩).setTimebase
    { Timebase.reset with run := .running }

/-- TRIPPED by M0, with OL0 CUT under M0. -/
def tripped : State :=
  (owned 0 .cut).setCutoff { Cutoff.reset with state := .tripped, trip := some ⟨.force 0, ⟨0, 0⟩, single 17⟩ }

/-! ### One step of each family -/

theorem test_tick_counts : (after .tick (running 0)).timebase.count = 1#32 := by decide +kernel
theorem test_frame_starts_again : (after .tick (running 2)).timebase.phase = 0 := by decide +kernel
theorem test_tb_resync : (after (.tbResync 0) (running 2)).timebase.epoch = 1#8 := by decide +kernel
theorem test_attach : (after (.attach 3) base).attachment 3 = .attached := by decide +kernel
theorem test_suspended_master_is_answered_bad_state :
    ((after (.tbRun 1) base).port 1).execution = some (.built ⟨.badState, 0x11#8, false, false, false, []⟩) := by
  decide +kernel
theorem test_supervisor_is_taken :
    ((after (.supvClaim 0) base).port 0).execution = some (.built ⟨.taken, 0x08#8, false, false, false, [2#8]⟩) := by
  decide +kernel
theorem test_rights_write :
    (after (.rightsWrite 2 ⟨0#8, 0xFF#24, 0x0F#8, 8#8, 0#8⟩) base).right 0 = ⟨0xFF#24, 0x0F#8, 8, false⟩ := by
  decide +kernel
theorem test_sample_qualifies : ((after (.captureSample 0 .high) (sampled 1)).capture 0).eventCount = 1#16 := by
  decide +kernel
theorem test_sample_counts : ((after (.captureSample 0 .high) (sampled 0)).capture 0).filter.run = 1 := by
  decide +kernel
theorem test_done_resamples :
    ((after (.done 0 7#8) (inService none)).queue 0).notices = [⟨.levelEvent, 0, 7#8, ⟨0, 0⟩⟩] := by decide +kernel
theorem test_deadline_reports_to_the_supervisor :
    ((after (.deadlineExpiry 0) (inService (some ⟨1, true⟩))).queue 2).notices =
      [⟨.lapsed 0b0001#4, 0, 7#8, ⟨0, 0⟩⟩] := by decide +kernel
theorem test_fetch_takes_the_notice :
    ((after (.fetch 0) (after (.done 0 7#8) (inService none))).queue 0).notices = [] := by decide +kernel
theorem test_firing_sets_the_line : ((after (.actionFiring 31) (scheduled (record .set .armed))).line 0).active = true := by
  decide +kernel
theorem test_firing_rearms :
    ((after (.actionFiring 31) (scheduled (record .set .armed))).action 31).map (·.due) = some 15#32 := by decide +kernel
theorem test_pulse_ends_two_ticks_later :
    ((after (.actionFiring 31) (scheduled (record .pulse .armed))).action 31).map (·.phase) = some (.active 7#32) := by
  decide +kernel
theorem test_line_claim : ((after (.lineClaim 0 7#8) base).line 7).owner = some 0 := by decide +kernel
theorem test_line_enable : ((after (.lineEnable 0 0#8) (owned 0 .disabled)).line 0).drive = .driven := by decide +kernel
theorem test_toggle_turns_the_bridge :
    ((bridge .bActive none).requestLevel 0 .toggle).pair 0 = ⟨.complement, 2, some .deadToA, some ⟨.a, 2, false⟩⟩ := by
  decide +kernel
theorem test_dead_time_expires :
    ((after (.deadTimeExpiry 0) (bridge .deadToA (some ⟨.a, 1, true⟩))).electrical 0) = .high := by decide +kernel
theorem test_cut_force_cuts : ((after (.cutForce 0) (owned 0 .driven)).line 0).drive = .cut := by decide +kernel
theorem test_cut_restore_rearms : (after (.cutRestore 0 0x01#8) tripped).cutoff.state = .armed := by decide +kernel
theorem test_response_is_placed :
    ((after (.responsePlacement 0) (after (.status 0) base)).port 0).state = .responseReady := by decide +kernel
theorem test_request_frame_is_taken :
    ((after (.requestFrame 0 [0x05#8, 0x00#8, 0x96#8]) base).port 0).execution = some (.taken (.status 0)) := by
  decide +kernel
theorem test_reset_release_starts_fresh : ((after .resetRelease inReset).port 1).stale = true := by decide +kernel
theorem test_chip_select_low_without_a_byte_is_stale :
    let s := after .resetRelease { inReset with arbiter := [0b0100, 3] }
    (s.port 2).stale = true ∧ (s.port 0).stale = false ∧ s.arbiter = [3] ∧
      (after (.requestFrame 2 [0x05#8, 0x00#8, 0x96#8]) s).port 2 = (base.setAttachment 2 .attached).port 2 := by
  decide +kernel
theorem test_sdo :
    inReset.sdo 1 = none ∧ base.sdo 0 = none ∧ (after (.requestFirstByte 0 0x05#8) base).sdo 0 = some 0x00#8 ∧
      ((after (.responseRead 0 7) base).port 0).shifted = [0x00#8, 0x02#8, 0x00#8, 0x00#8, 0x00#8, crc8 [2#8, 0#8, 0#8, 0#8],
        0x00#8, 0x00#8] := by decide +kernel
/-- A frame that begins and ends during the execution of another command leaves the chip-select high. -/
theorem test_collision_ends_its_period :
    let s := after (.requestFirstByte 0 0x05#8) (after (.requestFrame 0 [0x05#8, 0x00#8, 0x96#8]) base)
    let t := after (.fetch 0) s
    s.sdo 0 = some 0x00#8 ∧ t.sdo 0 = none ∧ (t.port 0).collided = true ∧ (t.port 0).state = .executing := by
  decide +kernel
theorem test_hold_takes_what_is_left_and_nothing_fires_while_halted :
    let s := after (.tbHold 0) (scheduled (record .set .armed))
    (s.line 0).active = true ∧ (s.action 31).map (·.due) = some 15#32 ∧ after (.actionFiring 31) s = s ∧
      s.scheduleEvent = none ∧ (after (.actionFiring 31) ((scheduled (record .set .armed)).setTimebase
        { Timebase.reset with count := 5 })).action 31 = some (record .set .armed) := by decide +kernel
theorem test_hold_ends_the_dead_time_that_has_run :
    let s := after (.tbHold 0) (bridge .deadToA (some ⟨.a, 1, true⟩))
    (s.pair 0).record = none ∧ s.electrical 0 = .high ∧ after (.deadTimeExpiry 0) s = s := by decide +kernel
theorem test_act_read_gives_a_distance_of_at_least_1 :
    ((after (.actRead 0 31#8) (scheduled (record .set .armed))).port 0).execution.map
        (fun x => match x with | .built r => (r.payload.length, (r.payload.drop 40).take 4) | .taken _ => (0, [])) =
      some (49, [10#8, 0#8, 0#8, 0#8]) := by decide +kernel
theorem test_line_in_two_groups_raises_two_events :
    let s := ((((sampled 1).setGroup 0 0x0001#16).setGroup 3 0xFFFF#16).setEntry 16
      { Entry.reset with masked := false, destinations := 0b0001#4 }).setEntry 19
      { Entry.reset with masked := false, destinations := 0b0001#4 }
    ((after (.captureQualification 0 .high) s).queue 0).notices.map (fun n => (n.body, n.source)) =
        [(.groupEvent 1#16 0, 16), (.groupEvent 1#16 0, 19)] ∧
      ((after (.captureQualification 0 .high) { s with arbiter := [1] }).queue 0).notices.map (·.source) = [19, 16] := by
  decide +kernel
theorem test_step_takes_the_front :
    step (base.withPending [.tbRun 0, .tick]) = exec (.tbRun 0) (base.withPending [.tick]) := by rfl

/-! ### A state and operands that meet each statement's hypotheses, clause by clause -/

/-- M0's port with an execution. -/
def executing (x : Execution) : State :=
  base.setPort 0 { base.port 0 with state := .executing, execution := some x }

/-- M0's port with a response in its slot. -/
def responseReady : State :=
  base.setPort 0 { base.port 0 with state := .responseReady, slot := some ⟨.ok, 0x05#8, false, false, false, [0x00#8]⟩ }

theorem test_hyp_StepTakesTheFrontCommand : (base.withPending [.tick]).pending = .tick :: [] := by rfl

theorem test_hyp_IdlePart_nothing_under_way : State.reset.pending = [] ∧ State.reset.ownEvents = [] := by
  decide +kernel

theorem test_hyp_IdlePart_something_under_way :
    (executing (.taken (.status 0))).pending = [] ∧ (executing (.taken (.status 0))).ownEvents ≠ [] := by decide +kernel

theorem test_hyp_reset_held_and_released :
    inReset.resetHeld = true ∧ base.resetHeld = false ∧ ((after .resetRelease inReset).port 1).stale = true ∧
      (after .resetRelease inReset).resetHeld = false := by decide +kernel

theorem test_hyp_NothingActsWhileResetIsLow :
    inReset.resetHeld = true ∧ Instr.tick ≠ .deviceReset ∧ Instr.tick ≠ .resetRelease := by decide +kernel

theorem test_hyp_FirstByte :
    base.resetHeld = false ∧ (base.port 0).stale = false ∧ (base.port 0).state = .idle ∧
      (responseReady.port 0).state = .responseReady := by decide +kernel

theorem test_hyp_ResponsePlacement :
    ((executing (.built ⟨.ok, 0x05#8, false, false, false, []⟩)).port 0).execution =
        some (.built ⟨.ok, 0x05#8, false, false, false, []⟩) ∧
      (base.port 0).execution = none ∧ (executing (.taken (.status 0))).resetHeld = false := by decide +kernel

theorem test_hyp_FrameCheck_at_48_bytes :
    (List.replicate 48 (0x00#8 : Byte)).length ≤ 48 ∧
      frameProblem (requestFrameBytes 0x05#8 (List.replicate 48 0x00#8)) = none := by decide +kernel

theorem test_hyp_Gate :
    commandLength 0x07#8 = none ∧ (commandLength 0x20#8 = some 6 ∧ ([] : List Byte).length ≠ 6) ∧
      commandLength 0x05#8 = some ([] : List Byte).length ∧ decodeRequest 0 0x05#8 [] = some (.status 0) := by decide

theorem test_hyp_Gate_refusal :
    (Instr.attach 0).requester = some 0 ∧ base.resetHeld = false ∧ (base.port 0).execution = none ∧
      admission (.attach 0) (base.attachment 0) = some .badState := by decide +kernel

theorem test_hyp_Gate_collision :
    ((executing (.taken (.status 0))).port 0).execution = some (.taken (.status 0)) ∧
      Instr.status 0 ≠ .attach 0 ∧ (executing (.taken (.status 0))).resetHeld = false := by decide +kernel

theorem test_hyp_RequestFrame :
    base.resetHeld = false ∧ (base.port 0).stale = false ∧ (0x05#8 : Byte) ≠ 0x80#8 ∧ (base.port 0).state ≠ .executing ∧
      ((executing (.taken (.status 0))).port 0).state = .executing := by decide +kernel

theorem test_hyp_ResponseRead :
    (responseReady.port 0).slot.isSome = true ∧ (responseReady.port 0).state = .responseReady ∧
      (responseReady.port 0).stale = false ∧ ((executing (.taken (.status 0))).port 0).execution.isSome = true ∧
      (base.port 0).state = .idle := by decide +kernel

theorem test_response_read_of_every_byte_empties_the_slot :
    (replyBytes (responseReady.attention 0) (responseReady.port 0).reply).length = 6 ∧
      ((after (.responseRead 0 6) responseReady).port 0).slot = none ∧
      ((after (.responseRead 0 5) responseReady).port 0).slot.isSome = true := by decide +kernel

theorem test_hyp_attachment_commands :
    base.carriesOut 3 (.attach 3) = true ∧ base.carriesOut 1 (.resume 1) = true ∧ base.carriesOut 0 (.suspend 0) = true ∧
      (base.carriesOut 3 (.detach 3) = true ∧ base.attachment 3 = .detached) ∧
      (base.carriesOut 1 (.detach 1) = true ∧ base.attachment 1 ≠ .detached) := by decide +kernel

theorem test_hyp_port_executing_the_command :
    (executing (.taken (.tbRun 0))).carriesOut 0 (.tbRun 0) = true := by decide +kernel

theorem test_hyp_reads :
    base.carriesOut 3 (.status 3) = true ∧ base.carriesOut 1 (.identify 1) = true ∧
      base.carriesOut 0 (.tbRead 0) = true ∧ base.carriesOut 0 (.cutRead 0) = true ∧
      base.carriesOut 0 (.capRead 0 15#8) = true ∧ base.carriesOut 0 (.capRead 0 16#8) = true ∧
      base.carriesOut 0 (.lineRead 0 7#8) = true ∧ base.carriesOut 0 (.entryRead 0 23#8) = true ∧
      base.carriesOut 0 (.entryRead 0 24#8) = true ∧ base.carriesOut 0 (.actList 0) = true := by decide +kernel

theorem test_hyp_timebase_commands :
    base.carriesOut 0 (.tbRun 0) = true ∧ base.carriesOut 0 (.tbHold 0) = true ∧
      base.carriesOut 0 (.tbResync 0) = true ∧ base.carriesOut 0 (.tbConfig 0 ⟨15#8, 256#16, 2#24, 2#8, 0#32⟩) = true ∧
      base.resetHeld = false := by decide +kernel

theorem test_tb_config_takes_prescale_256_and_not_257 :
    (after (.tbConfig 0 ⟨1#8, 256#16, 0#24, 0#8, 0#32⟩) base).timebase.prescale = 256 ∧
      (after (.tbConfig 0 ⟨1#8, 257#16, 0#24, 0#8, 0#32⟩) base).timebase.prescale = 1 := by decide +kernel

theorem test_hyp_SyncEdge :
    let s := base.setTimebase { Timebase.reset with syncMode := .rising }
    Level.high ≠ s.timebase.syncSample ∧ s.timebase.syncMode = .rising ∧ base.timebase.syncMode = .off := by
  decide +kernel

theorem test_hyp_Tick :
    base.timebase.run = .halted ∧ (running 0).timebase.run = .running ∧ (running 2).settled = true ∧
      ((running 2).settle.timebase.phase + 1 = (running 2).settle.timebase.framePeriod) ∧
      ((running 0).settle.timebase.phase + 1 ≠ (running 0).settle.timebase.framePeriod) ∧
      (scheduled (record .set .armed)).settled = false := by decide +kernel

theorem test_hyp_DeadTime :
    ((bridge .deadToA (some ⟨.a, 1, true⟩)).pair 0).record = some ⟨.a, 1, true⟩ ∧
      ((bridge .deadToB (some ⟨.b, 2, false⟩)).pair 0).record = some ⟨.b, 2, false⟩ ∧
      (base.pair 0).record = none ∧ base.resetHeld = false := by decide +kernel

theorem test_hyp_samples :
    (((sampled 0).capture 0).filter.loaded = true ∧ Level.low = ((sampled 0).capture 0).filter.level) ∧
      (Level.high ≠ ((sampled 0).capture 0).filter.level ∧
        ((sampled 0).capture 0).filter.run < ((sampled 0).capture 0).filter.length) ∧
      ((sampled 1).capture 0).filter.length ≤ ((sampled 1).capture 0).filter.run ∧
      (base.capture 0).filter.loaded = false := by decide +kernel

theorem test_hyp_QualifiedChange_level_mode :
    let s := inService none
    s.resetHeld = false ∧ (s.capture 0).filter.loaded = true ∧ Level.low ≠ (s.capture 0).filter.level ∧
      (s.capture 0).filter.length ≤ (s.capture 0).filter.run ∧ (s.capture 0).mode = .level := by decide +kernel

/-- CL0 in EDGE mode, sampled, with gate enable on and a prescale of 2. -/
def gated (gate : Gate) (count : Nat) : State :=
  base.setCapture 0
    { CaptureLine.reset with
      filter := { Filter.reset with loaded := true }
      prescale := 2
      prescalerCount := count
      gateEnable := true
      gate := gate }

theorem test_hyp_QualifiedChange_edge_mode :
    ((gated .closed 0).capture 0).gate = .closed ∧ ((gated .opened 0).capture 0).prescalerCount + 1 < 2 ∧
      2 ≤ ((gated .opened 1).capture 0).prescalerCount + 1 ∧ ((gated .opened 1).capture 0).edgeSelect = .rising ∧
      ((gated .opened 1).capture 0).mode = .edge ∧ Level.high ≠ ((gated .opened 1).capture 0).filter.level := by
  decide +kernel

theorem test_gate_closes_behind_the_event :
    ((after (.captureQualification 0 .high) (gated .opened 1)).capture 0).gate = .closed := by decide +kernel

/-- The largest values CAP_CONFIG takes, for CL15. -/
def widestCapture : CapFields := ⟨15#8, 1#8, 2#8, 1#8, 15#8, 512#16, 256#16, 1#8⟩

theorem test_hyp_CapConfig :
    base.carriesOut 0 (.capConfig 0 widestCapture) = true ∧ (base.right 0).entries.getLsbD 15 = true ∧
      captureSettingsOf widestCapture = some ⟨.level, .both, .high, 15, 512, 256, true⟩ ∧
      (base.entry (capEntry 15)).awaiting = 0#4 ∧ ((inService none).entry (capEntry 0)).awaiting ≠ 0#4 ∧
      (inService none).carriesOut 0 (.capConfig 0 { widestCapture with line := 0#8 }) = true ∧
      base.carriesOut 0 (.capConfig 0 { widestCapture with line := 16#8 }) = true ∧
      captureSettingsOf { widestCapture with prescale := 257#16 } = none := by decide +kernel

theorem test_hyp_CapGate_GroupConfig :
    base.carriesOut 0 (.capGate 0 15#8) = true ∧ base.carriesOut 0 (.capGate 0 16#8) = true ∧
      base.carriesOut 0 (.groupConfig 0 3#8 0xFFFF#16) = true ∧ base.carriesOut 0 (.groupConfig 0 4#8 0#16) = true := by
  decide +kernel

/-- E16 unmasked, to every master, in the delivery mode given, with the rotation pointer at 3. -/
def delivering (d : Delivery) : State :=
  base.setEntry 16 { Entry.reset with masked := false, destinations := 0b1111#4, delivery := d, rotation := 3 }

theorem test_hyp_MastersAreChosen :
    ((delivering .all).entry 16).delivery = .all ∧ ((delivering .one).entry 16).delivery = .one ∧
      (∀ m, base.deliverable 16 m = false) ∧ (delivering .one).deliverable 16 (3 + 1) = true ∧
      (delivering .one).deliverable 16 (3 + 0) = false ∧ (delivering .one).choose 16 = (0b0001#4, 1) ∧
      (delivering .all).choose 16 = (0b0101#4, 3) := by decide +kernel

theorem test_hyp_EntriesDeliver :
    ((base.entry 16).masked = true) ∧ (((delivering .all).entry 16).masked = false ∧
      ((delivering .all).choose 16).1 ≠ 0#4) ∧ (base.choose 0).1 = 0#4 ∧ ((inService none).choose 0).1 ≠ 0#4 := by
  decide +kernel

theorem test_hyp_Resample :
    (((inService none).entry 0).masked = false ∧ (inService none).entryAsserted 0 = true) ∧
      (∃ m, (inService none).deliverable 0 m = true) ∧ ¬((base.entry 0).masked = false ∧ base.entryAsserted 0 = true) ∧
      without ((inService none).entry 0).awaiting 0 = 0#4 := by decide +kernel

theorem test_hyp_Resample_nobody_deliverable :
    let s := (inService none).setAttachment 0 .suspended
    ((s.entry 0).masked = false ∧ s.entryAsserted 0 = true) ∧ ∀ m, s.deliverable 0 m = false := by decide +kernel

theorem test_hyp_DeadlineExpiry :
    ((inService (some ⟨1, true⟩)).entry 0).timer = some ⟨1, true⟩ ∧ (base.entry 0).timer = none ∧
      base.supervisor = some 2 ∧ State.reset.supervisor = none := by decide +kernel

theorem test_hyp_EntryWrite :
    base.carriesOut 0 (.entryWrite 0 ⟨15#8, 7#8, 15#8, 0#8, 0#16⟩) = true ∧
      base.carriesOut 0 (.entryWrite 0 ⟨24#8, 0#8, 0#8, 0#8, 0#16⟩) = true ∧
      base.carriesOut 0 (.entryWrite 0 ⟨16#8, 4#8, 0#8, 0#8, 0#16⟩) = true ∧
      (base.right 0).entries.getLsbD 15 = true ∧ (base.entry 15).awaiting = 0#4 ∧
      ((inService none).entry 0).awaiting ≠ 0#4 := by decide +kernel

theorem test_entry_write_bounds :
    ((after (.entryWrite 0 ⟨15#8, 7#8, 15#8, 1#8, 2#16⟩) base).entry 15).cutoffSource = true ∧
      ((after (.entryWrite 0 ⟨16#8, 4#8, 15#8, 1#8, 2#16⟩) base).entry 16) = Entry.reset ∧
      ((after (.entryWrite 0 ⟨15#8, 8#8, 15#8, 1#8, 2#16⟩) base).entry 15) = Entry.reset ∧
      ((after (.entryWrite 0 ⟨15#8, 7#8, 16#8, 1#8, 2#16⟩) base).entry 15) = Entry.reset := by decide +kernel

theorem test_hyp_EntryMask :
    base.carriesOut 0 (.entryMask 0 23#8 1#8) = true ∧ base.carriesOut 0 (.entryMask 0 24#8 0#8) = true ∧
      base.carriesOut 0 (.entryMask 0 0#8 2#8) = true := by decide +kernel

theorem test_hyp_Done :
    (inService none).carriesOut 0 (.done 0 7#8) = true ∧ base.carriesOut 0 (.done 0 7#8) = true ∧
      ((inService none).awaitingEntries 0 fun x => x.tag == 7#8) = [0] ∧
      (base.awaitingEntries 0 fun x => x.tag == 7#8) = [] := by decide +kernel

/-- M0's queue with so many notices, and losses as given. -/
def filled (n losses : Nat) : State :=
  base.setQueue 0
    { NoticeQueue.reset with
      notices := List.replicate n ⟨.frame, 20, 0#8, ⟨0, 0⟩⟩
      losses := losses
      firstLoss := if losses = 0 then none else some ⟨0, 0⟩
      lostSources := if losses = 0 then 0 else 1 }

theorem test_hyp_Notice :
    base.attachment 1 ≠ .attached ∧ base.attachment 0 = .attached ∧ ((filled 15 0).queue 0).notices.length < 16 ∧
      16 ≤ ((filled 16 0).queue 0).notices.length := by decide +kernel

theorem test_losses_stay_at_65535 :
    (((filled 16 65535).hand 0 ⟨.frame, 20, 0#8, ⟨0, 0⟩⟩).queue 0).losses = 65535 ∧
      (((filled 16 65534).hand 0 ⟨.frame, 20, 0#8, ⟨0, 0⟩⟩).queue 0).losses = 65535 := by decide +kernel

theorem test_hyp_Fetch_Attention :
    base.carriesOut 0 (.fetch 0) = true ∧ (base.queue 0).notices = [] ∧ (filled 16 1).carriesOut 0 (.fetch 0) = true ∧
      ((filled 16 1).queue 0).notices ≠ [] ∧ base.carriesOut 0 (.attnEnable 0 1#8) = true ∧
      base.carriesOut 0 (.attnEnable 0 2#8) = true := by decide +kernel

/-- A SET of OL0 one tick ahead, once. -/
def setOnce : SubmitFields := ⟨0#8, 0#8, 1#8, 1#8, 0#8, 1#32, 0#24, 0#24, 0#32, 1#16⟩

theorem test_hyp_ActSubmit :
    (owned 0 .driven).carriesOut 0 (.actSubmit 0 setOnce) = true ∧
      submitFormOf setOnce = some ⟨.set, .output 0, .relative, .each⟩ ∧
      (owned 0 .driven).targetRefusal 0 (.output 0) = none ∧
      (owned 0 .driven).timebase.dueTime .relative 1#32 = .inr 1#32 ∧
      widthsFit .set (widthOf 0#24) (widthOf 0#24) 0 1 = true ∧
      (owned 0 .driven).held 0 < ((owned 0 .driven).right 0).quota ∧ (owned 0 .driven).action 0 = none := by
  decide +kernel

theorem test_hyp_ActSubmit_refusals :
    submitFormOf { setOnce with kind := 6#8 } = none ∧ base.targetRefusal 0 (.output 0) = some .notOwner ∧
      base.timebase.dueTime .relative 0#32 = .inl .late ∧
      base.timebase.dueTime .relative 0x80000000#32 = .inl .badArg ∧
      base.timebase.dueTime .relative 0x7FFFFFFF#32 = .inr 0x7FFFFFFF#32 ∧
      base.timebase.dueTime .absolute 0x80000000#32 = .inl .late ∧
      base.timebase.dueTime .frame 0#32 = .inl .badState ∧
      widthsFit .set (some 1) none 0 1 = false := by decide +kernel

/-- R91, check 1: the last value each field takes and the first it does not. -/
theorem test_submit_form_bounds :
    submitFormOf { setOnce with target := 7#8, reference := 2#8, notify := 2#8 } =
        some ⟨.set, .output 7, .frame, .last⟩ ∧
      submitFormOf { setOnce with target := 8#8 } = none ∧
      submitFormOf { setOnce with reference := 3#8 } = none ∧ submitFormOf { setOnce with notify := 3#8 } = none ∧
      submitFormOf { setOnce with kind := 3#8, target := 7#8 } = some ⟨.pulse, .output 7, .relative, .each⟩ ∧
      submitFormOf { setOnce with kind := 4#8, target := 15#8 } = some ⟨.gateOpen, .capture 15, .relative, .each⟩ ∧
      submitFormOf { setOnce with kind := 4#8, target := 16#8 } = none ∧
      submitFormOf { setOnce with kind := 5#8, target := 0xFF#8 } = some ⟨.mark, .absent, .relative, .each⟩ ∧
      submitFormOf { setOnce with kind := 5#8 } = none := by decide +kernel

theorem test_hyp_ActSubmit_quota_full :
    let s := (owned 0 .driven).setRight 0 { Rights.reset with quota := 0 }
    s.carriesOut 0 (.actSubmit 0 setOnce) = true ∧ (s.right 0).quota ≤ s.held 0 := by decide +kernel

theorem test_hyp_RecordCommands :
    let s := scheduled (record .pulse (.active 7))
    s.carriesOut 0 (.actModify 0 ⟨31#8, 1#24, 0#24, 3#32⟩) = true ∧ s.carriesOut 0 (.actCancel 0 31#8) = true ∧
      s.carriesOut 0 (.actRead 0 31#8) = true ∧ s.carriesOut 0 (.actRead 0 32#8) = true ∧
      s.action 31 = some (record .pulse (.active 7)) ∧ s.action 30 = none ∧ (record .pulse (.active 7)).owner ≠ 2 ∧
      s.carriesOut 2 (.actRead 2 31#8) = true := by decide +kernel

theorem test_act_modify_needs_a_period_above_the_widths :
    (record .pulse .armed).updateFits ⟨some 1, none, 3⟩ = true ∧
      (record .pulse .armed).updateFits ⟨some 1, none, 2⟩ = false := by decide +kernel

theorem test_hyp_Firing :
    let s := scheduled (record .set .armed)
    s.resetHeld = false ∧ base.fireDue 31 = false ∧ (record .set .armed).due = s.timebase.count ∧
      (∀ k, s.endDue k = false) ∧ (∀ k, k < 31 → s.fireDue k = false) ∧ s.fireDue 31 = true := by decide +kernel

theorem test_hyp_PulseEnd :
    let s := scheduled (record .pulse (.active 5))
    (record .pulse (.active 5)).phase = .active s.timebase.count ∧ (∀ k, k < 31 → s.endDue k = false) ∧
      base.endDue 31 = false ∧ s.endDue 31 = true := by decide +kernel

theorem test_hyp_Completion :
    (record .set .armed).period ≠ 0 ∧ (record .set .armed).staged = none ∧
      ({ record .set .armed with remaining := some 1 } : ActionRecord).remaining.map (fun k => k - 1) = some 0 := by
  decide

theorem test_hyp_LevelRequests :
    (base.line 0).drive ≠ .driven ∧ ((owned 0 .driven).line 0).drive = .driven ∧
      ((owned 0 .driven).pair (pairOf 0)).mode = .independent ∧ ((bridge .aActive none).pair (pairOf 0)).mode = .complement ∧
      ((bridge .aActive none).line 0).drive = .driven := by decide +kernel

theorem test_hyp_line_commands :
    base.carriesOut 0 (.lineClaim 0 7#8) = true ∧ (owned 7 .disabled).carriesOut 0 (.lineRelease 0 7#8) = true ∧
      (owned 7 .disabled).carriesOut 0 (.lineEnable 0 7#8) = true ∧
      (owned 7 .driven).carriesOut 0 (.lineDisable 0 7#8) = true ∧
      (owned 7 .disabled).carriesOut 0 (.lineConfig 0 ⟨7#8, 1#8, 2#8, 1#8⟩) = true ∧
      base.carriesOut 0 (.pairConfig 0 ⟨3#8, 1#8, 1023#16⟩) = true ∧
      base.carriesOut 0 (.lineClaim 0 8#8) = true ∧ base.carriesOut 0 (.pairConfig 0 ⟨4#8, 0#8, 0#16⟩) = true := by
  decide +kernel

theorem test_line_and_pair_config :
    let s := (owned 6 .disabled).setLine 7 ((owned 6 .disabled).line 6)
    (after (.lineConfig 0 ⟨7#8, 1#8, 2#8, 0#8⟩) s).line 7 = ⟨some 0, .disabled, .activeLow, .float, false, false⟩ ∧
      (after (.pairConfig 0 ⟨3#8, 1#8, 1023#16⟩) s).pair 3 = ⟨.complement, 1023, none, none⟩ ∧
      (after (.pairConfig 0 ⟨3#8, 1#8, 1024#16⟩) s).pair 3 = Pair.reset := by decide +kernel

theorem test_hyp_Cutoff :
    tripped.cutoff.state = .tripped ∧ base.cutoff.state = .armed ∧
      (let s := tripped.setLine 0 OutputLine.reset
       s.cutoff.state = .tripped ∧ s.cutoff.asserted = 0#17 ∧ ∀ l, (s.line l).drive ≠ .cut) := by decide +kernel

theorem test_hyp_CutForce_CutRestore :
    (owned 0 .driven).carriesOut 0 (.cutForce 0) = true ∧ ((owned 0 .driven).line 0).owner = some 0 ∧
      (State.reset.setAttachment 0 .attached).carriesOut 0 (.cutForce 0) = true ∧
      (State.reset.setAttachment 0 .attached).supervisor ≠ some 0 ∧
      (∀ l, (State.reset.line l).owner ≠ some 0) ∧ tripped.carriesOut 0 (.cutRestore 0 0x01#8) = true := by decide +kernel

/-- The CUTOFF pin enabled, active high, sampled low, with a filter of length 1 and the run count given. -/
def pinSampled (run : Nat) : State :=
  base.setCutoff
    { Cutoff.reset with
      pinEnable := true
      pinActive := .high
      filter := { Filter.reset with length := 1, run := run, loaded := true } }

theorem test_hyp_CutoffPin :
    base.carriesOut 2 (.cutConfig 2 ⟨1#8, 1#8, 15#8, 512#16⟩) = true ∧ base.carriesOut 0 (.cutConfig 0 ⟨0, 0, 0, 1⟩) = true ∧
      base.supervisor = some 2 ∧ State.reset.supervisor = none ∧ (pinSampled 0).cutoff.filter.loaded = true ∧
      (pinSampled 0).cutoff.filter.run < (pinSampled 0).cutoff.filter.length ∧
      (pinSampled 1).cutoff.filter.length ≤ (pinSampled 1).cutoff.filter.run ∧
      Level.high ≠ (pinSampled 1).cutoff.filter.level ∧ base.cutoff.filter.loaded = false := by decide +kernel

theorem test_cutoff_pin_trips :
    (after (.cutoffPinSample .high) (pinSampled 1)).cutoff.state = .tripped ∧
      (after (.cutoffPinSample .high) (pinSampled 0)).cutoff.state = .armed := by decide +kernel

theorem test_hyp_Rights :
    base.carriesOut 0 (.supvClaim 0) = true ∧ State.reset.supervisor = none ∧
      base.carriesOut 2 (.labelWrite 2 (Vector.replicate 16 0x41#8)) = true ∧
      base.carriesOut 0 (.rightsRead 0 3#8) = true ∧ base.carriesOut 0 (.rightsRead 0 4#8) = true ∧
      base.carriesOut 2 (.rightsWrite 2 ⟨3#8, 0, 0, 8#8, 1#8⟩) = true ∧
      base.carriesOut 2 (.rightsWrite 2 ⟨4#8, 0, 0, 8#8, 1#8⟩) = true ∧ base.supervisor = some 2 ∧
      base.held 3 ≤ 8 := by decide +kernel

theorem test_rights_write_bounds :
    ((after (.rightsWrite 2 ⟨3#8, 0, 0, 8#8, 1#8⟩) base).right 3) = ⟨0, 0, 8, true⟩ ∧
      ((after (.rightsWrite 2 ⟨3#8, 0, 0, 9#8, 1#8⟩) base).right 3) = Rights.reset := by decide +kernel

theorem test_supervisor_and_label_stay :
    (after (.supvClaim 0) base).supervisor = some 2 ∧
      (after (.labelWrite 2 (Vector.replicate 16 0x42#8))
        (after (.labelWrite 2 (Vector.replicate 16 0x41#8)) base)).label = some (Vector.replicate 16 0x41#8) := by
  decide +kernel

/-- The state after reset has no line owned, no pair COMPLEMENT, no record and nobody awaited. -/
theorem test_hyp_invariants : base.linesSound ∧ base.cutoffSound ∧ base.pairsSound ∧ base.recordsSound := by
  refine ⟨⟨fun l => ?_, fun p h => ?_⟩, ⟨?_, fun _ l => ?_, ?_⟩, fun p => ?_, fun n r l h => ?_⟩
  · simp [base, State.line, State.reset, OutputLine.reset]
  · simp [base, State.complement, State.pair, State.reset, Pair.reset] at h
  · simp [base, State.reset, Cutoff.reset]
  · simp [base, State.line, State.reset, OutputLine.reset]
  · simp [base, State.reset, Cutoff.reset]
  · simp [base, State.pair, State.line, State.reset, Pair.reset, OutputLine.reset, State.complement]
  · simp [base, State.action, State.reset] at h

theorem test_hyp_invariants_of_queues_timebase_captures_quotas_entries :
    base.queuesSound ∧ base.timebase.sound ∧ base.capturesSound ∧ base.quotasSound ∧ base.entriesSound := by
  refine ⟨fun m => ?_, ?_, fun n => ?_, ⟨by decide +kernel, by decide +kernel⟩, fun e => ?_⟩
  · simp [base, State.queue, State.reset, NoticeQueue.reset, NoticeQueue.sound]
  · simp [base, State.reset, Timebase.reset, Timebase.sound]
  · simp [base, State.capture, State.reset, CaptureLine.reset, Filter.reset, CaptureLine.sound]
  · simp [base, State.entry, State.reset, Entry.reset]

/-- A COMPLEMENT pair that is DRIVEN with A at its active level. -/
theorem test_hyp_ComplementaryPairs :
    (bridge .aActive none).complement 0 = true ∧ ((bridge .aActive none).line (lineA 0)).drive ≠ .cut ∧
      (bridge .aActive none).electrical (lineA 0) = .high ∧ (bridge .aActive none).electrical (lineB 0) = .low := by
  decide +kernel

theorem test_hyp_RequestsDecode :
    encodeRequest (.labelWrite 2 (Vector.replicate 16 0xFF#8)) = some (2, 0x0B#8, List.replicate 16 0xFF#8) := by
  decide +kernel

theorem test_hyp_RequestFrameThenExecution :
    encodeRequest (.status 0) = some (0, 0x05#8, []) ∧ base.resetHeld = false ∧ (base.port 0).stale = false ∧
      (base.port 0).execution = none ∧ (base.port 0).state ≠ .executing ∧
      admission (.status 0) (base.attachment 0) = none := by decide +kernel

end Sys2Proof.Tests
end

section
/-! PROOF. Who is chosen at an entry (R38 to R40). -/
namespace Sys2Proof.Machine

/-! ### The choice, one equation per delivery mode -/

theorem State.choose_all {s : State} {e : EntryIx} (h : (s.entry e).delivery = .all) :
    s.choose e = (s.chooseAll e, (s.entry e).rotation) := by
  simp only [State.choose, h]

theorem State.choose_one_some {s : State} {e : EntryIx} {m : Master} (h : (s.entry e).delivery = .one)
    (hm : s.chooseOne e = some m) : s.choose e = (single m.val, m + 1) := by
  simp only [State.choose, h, hm]

theorem State.choose_one_none {s : State} {e : EntryIx} (h : (s.entry e).delivery = .one)
    (hn : s.chooseOne e = none) : s.choose e = (0#4, (s.entry e).rotation) := by
  simp only [State.choose, h, hn]

/-! ### The rotation (R40) -/

/-- In the order tried, only masters at smaller offsets from the pointer stand before the one at offset `k`. -/
theorem rotation_split (p : Master) (k : Fin 4) :
    ∃ before after : List Master, [p, p + 1, p + 2, p + 3] = before ++ (p + k) :: after ∧
      ∀ m ∈ before, ∃ j < k, m = p + j := by
  match k with
  | 0 => exact ⟨[], [p + 1, p + 2, p + 3], by simp, by simp⟩
  | 1 => exact ⟨[p], [p + 2, p + 3], rfl, by simp⟩
  | 2 => exact ⟨[p, p + 1], [p + 3], rfl, by simp⟩
  | 3 => exact ⟨[p, p + 1, p + 2], [], rfl, by simp⟩

/-- The search finds the deliverable master that no deliverable one precedes in the rotation. -/
theorem State.chooseOne_eq_first {s : State} {e : EntryIx} {k : Fin 4}
    (hk : s.deliverable e ((s.entry e).rotation + k) = true)
    (hfirst : ∀ j : Fin 4, j < k → s.deliverable e ((s.entry e).rotation + j) = false) :
    s.chooseOne e = some ((s.entry e).rotation + k) := by
  obtain ⟨before, after, hsplit, hbefore⟩ := rotation_split (s.entry e).rotation k
  refine List.find?_eq_some_iff_append.mpr ⟨hk, before, after, hsplit, fun m hm => ?_⟩
  obtain ⟨j, hj, rfl⟩ := hbefore m hm
  simp [hfirst j hj]

end Sys2Proof.Machine

open Sys2Proof Sys2Proof.Machine

/-- Settles O25: mode ALL by membership in the set of deliverable masters, mode ONE by the order in which the
rotation tries the masters. -/
theorem mastersAreChosenByDeliveryMode : Obligations.MastersAreChosenByDeliveryMode := by
  unfold Obligations.MastersAreChosenByDeliveryMode
  intro s e
  refine ⟨s.deliverable_iff e, fun hall => ?_, fun hone => ⟨fun hnone => ?_, fun k hk hfirst => ?_⟩⟩
  · rw [State.choose_all hall]
    exact ⟨setOf_getLsbD fun m => s.deliverable e m, rfl⟩
  · exact State.choose_one_none hone (State.chooseOne_none.mpr hnone)
  · exact State.choose_one_some hone (State.chooseOne_eq_first hk hfirst)

end

section
/-! PROOF. What a queue does with a notice handed to it (R77, R78). -/
namespace Sys2Proof.Machine

/-! ### A hand-off, by the attachment state of its master -/

theorem State.hand_of_not_attached {s : State} {m : Master} (h : s.attachment m ≠ .attached) (n : Notice) :
    s.hand m n = s :=
  if_neg h

theorem State.hand_of_attached {s : State} {m : Master} (h : s.attachment m = .attached) (n : Notice) :
    s.hand m n = s.setQueue m ((s.queue m).takeIn n) :=
  if_pos h

/-! ### Taking a notice in, by the depth of the queue -/

theorem NoticeQueue.takeIn_of_room {q : NoticeQueue} (h : q.notices.length < 16) (n : Notice) :
    q.takeIn n = { q with notices := q.notices ++ [n] } :=
  if_pos h

theorem NoticeQueue.takeIn_of_full {q : NoticeQueue} (h : 16 ≤ q.notices.length) (n : Notice) :
    q.takeIn n = q.merge n :=
  if_neg (Nat.not_lt.mpr h)

/-! ### The overflow record after a merge -/

/-- A loss is counted below the ceiling; at the ceiling, or above it, the count is the ceiling. -/
theorem lossCount_saturates (k : Nat) : min (k + 1) Config.lossCeiling = if k < 65535 then k + 1 else 65535 := by
  simp only [Config.lossCeiling]
  split <;> omega

theorem Notice.lostSource_of_actionDone {n : Notice} {firings : BitVec 16} (h : n.body = .actionDone firings) :
    n.lostSource = 24 := by
  simp only [Notice.lostSource, h]

theorem Notice.lostSource_of_actionCancelled {n : Notice} {reason : CancelReason}
    (h : n.body = .actionCancelled reason) : n.lostSource = 24 := by
  simp only [Notice.lostSource, h]

/-- A notice of the Steering Table, LAPSED included, stands for the entry in its source field. -/
theorem Notice.lostSource_of_entry {n : Notice} (hdone : ∀ k, n.body ≠ .actionDone k)
    (hcancelled : ∀ r, n.body ≠ .actionCancelled r) (hoverflow : ∀ k t x, n.body ≠ .overflow k t x) :
    n.lostSource = n.source.val := by
  unfold Notice.lostSource
  split
  case h_1 firings h => exact absurd h (hdone firings)
  case h_2 reason h => exact absurd h (hcancelled reason)
  case h_3 losses first sources h => exact absurd h (hoverflow losses first sources)
  all_goals rfl

end Sys2Proof.Machine

open Sys2Proof Sys2Proof.Machine

/-- Settles O33: by the attachment state, then by the depth of the queue, then, for a merge, by the kind of the
notice, which decides the lost source. -/
theorem noticeIsAppendedMergedOrDiscarded : Obligations.NoticeIsAppendedMergedOrDiscarded := by
  unfold Obligations.NoticeIsAppendedMergedOrDiscarded
  intro s m n
  refine ⟨fun hnot => State.hand_of_not_attached hnot n, fun hatt hroom => ?_, fun hatt hfull hoverflow => ?_⟩
  · rw [State.hand_of_attached hatt, NoticeQueue.takeIn_of_room hroom]
  · rw [State.hand_of_attached hatt, NoticeQueue.takeIn_of_full hfull]
    simp only [NoticeQueue.merge, lossCount_saturates]
    congr 3 -- only the source that joins the lost sources is left to compare (R78)
    split
    case h_1 firings hdone => rw [Notice.lostSource_of_actionDone hdone]
    case h_2 reason hcancelled => rw [Notice.lostSource_of_actionCancelled hcancelled]
    case h_3 hdone hcancelled => rw [Notice.lostSource_of_entry hdone hcancelled hoverflow]

end

section
/-! PROOF. The level of a pin (R116, R126), and what a level request does (R125, R127). -/
namespace Sys2Proof.Machine

/-! ### The level of a pin, by the drive state of its line -/

theorem OutputLine.pinLevel_eq (x : OutputLine) (active : Bool) :
    x.pinLevel active =
      if x.polarity = .activeHigh then if active then .high else .low else if active then .low else .high := by
  unfold OutputLine.pinLevel
  cases x.polarity <;> cases active <;> rfl

theorem State.electrical_of_float {s : State} {l : OutLine} (h : (s.line l).drive = .float) :
    s.electrical l = .float := by
  simp only [State.electrical, h]

theorem State.electrical_of_disabled {s : State} {l : OutLine} (h : (s.line l).drive = .disabled) :
    s.electrical l = (s.line l).pinLevel false := by
  simp only [State.electrical, h]

theorem State.electrical_of_cut {s : State} {l : OutLine} (h : (s.line l).drive = .cut) :
    s.electrical l = (s.line l).safe := by
  simp only [State.electrical, h]

theorem State.electrical_of_driven {s : State} {l : OutLine} (h : (s.line l).drive = .driven) :
    s.electrical l = (s.line l).pinLevel (s.drivenActive l) := by
  simp only [State.electrical, h]

theorem State.drivenActive_of_independent {s : State} {l : OutLine} (h : (s.pair (pairOf l)).mode = .independent) :
    s.drivenActive l = (s.line l).active := by
  simp only [State.drivenActive, h]

@[simp] theorem sideOf_lineA (p : PairIx) : sideOf (lineA p) = .a := by revert p; decide

@[simp] theorem sideOf_lineB (p : PairIx) : sideOf (lineB p) = .b := by revert p; decide

/-- R126: of a COMPLEMENT pair, A's pin is active in A_ACTIVE alone and B's pin in B_ACTIVE alone. -/
theorem State.drivenActive_of_complement {s : State} {l : OutLine} (h : (s.pair (pairOf l)).mode = .complement) :
    s.drivenActive l =
      ((decide (l = lineA (pairOf l)) && (s.pair (pairOf l)).state == some .aActive) ||
        (decide (l = lineB (pairOf l)) && (s.pair (pairOf l)).state == some .bActive)) := by
  simp only [State.drivenActive, h]
  rcases line_of_pair l with hl | hl <;> generalize pairOf l = p at hl ⊢ <;> subst hl
  case inl =>
    rw [sideOf_lineA, decide_eq_true rfl, decide_eq_false (lineA_ne_lineB p)]
    rcases (s.pair p).state with _ | (_ | _ | _ | _) <;> rfl
  case inr =>
    rw [sideOf_lineB, decide_eq_true rfl, decide_eq_false (lineA_ne_lineB p).symm]
    rcases (s.pair p).state with _ | (_ | _ | _ | _) <;> rfl

/-! ### A request concerning line A of a COMPLEMENT pair (R127) -/

theorem State.requestPair_towardA {s : State} {p : PairIx}
    (h : (s.pair p).state = some .bActive ∨ (s.pair p).state = some .deadToB) :
    s.requestPair p true = s.handOver p .a := by
  rcases h with h | h <;> simp only [State.requestPair, h]

theorem State.requestPair_towardB {s : State} {p : PairIx}
    (h : (s.pair p).state = some .aActive ∨ (s.pair p).state = some .deadToA) :
    s.requestPair p false = s.handOver p .b := by
  rcases h with h | h <;> simp only [State.requestPair, h]

/-- A pair at the side asked for, or on its way there, keeps its state and its dead time. -/
theorem State.requestPair_of_not_toward {s : State} {p : PairIx} {wantA : Bool}
    (ha : ¬(wantA = true ∧ ((s.pair p).state = some .bActive ∨ (s.pair p).state = some .deadToB)))
    (hb : ¬(wantA = false ∧ ((s.pair p).state = some .aActive ∨ (s.pair p).state = some .deadToA))) :
    s.requestPair p wantA = s := by
  unfold State.requestPair
  split
  case h_1 h => exact absurd ⟨rfl, .inl h⟩ hb
  case h_2 h => exact absurd ⟨rfl, .inr h⟩ hb
  case h_3 h => exact absurd ⟨rfl, .inl h⟩ ha
  case h_4 h => exact absurd ⟨rfl, .inr h⟩ ha
  case h_5 => rfl

/-! ### A level request to a line (R125) -/

theorem State.requestLevel_of_not_driven {s : State} {l : OutLine} (h : (s.line l).drive ≠ .driven)
    (q : LevelRequest) : s.requestLevel l q = s :=
  if_neg h

theorem State.requestLevel_of_independent {s : State} {l : OutLine} (hd : (s.line l).drive = .driven)
    (hm : (s.pair (pairOf l)).mode = .independent) (q : LevelRequest) :
    s.requestLevel l q = s.setLine l { s.line l with active := q.wanted (s.line l).active } := by
  simp only [State.requestLevel, hd, hm, if_true]

theorem State.requestLevel_of_complement {s : State} {l : OutLine} (hd : (s.line l).drive = .driven)
    (hm : (s.pair (pairOf l)).mode = .complement) (q : LevelRequest) :
    s.requestLevel l q = s.requestPair (pairOf l) (q.wanted (s.line (lineA (pairOf l))).active) := by
  simp only [State.requestLevel, hd, hm, if_true]

end Sys2Proof.Machine

open Sys2Proof Sys2Proof.Machine

/-- Settles O40: the level of a pin by the drive state and the pair's mode; a level request by the same two, and in
a COMPLEMENT pair by the side the request turns the pair to. -/
theorem pinLevelsAndLevelRequests : Obligations.PinLevelsAndLevelRequests := by
  unfold Obligations.PinLevelsAndLevelRequests
  refine ⟨fun s l => ?pin, fun s l q => ?request, fun s r q => ?record⟩
  case pin =>
    intro pin
    have hpin (active : Bool) : (s.line l).pinLevel active = pin active := OutputLine.pinLevel_eq _ active
    refine ⟨State.electrical_of_float, fun hdisabled => ?_, State.electrical_of_cut, fun hdriven hind => ?_,
      fun hdriven hcomp => ?_⟩
    · rw [State.electrical_of_disabled hdisabled, hpin]
    · rw [State.electrical_of_driven hdriven, State.drivenActive_of_independent hind, hpin]
    · rw [State.electrical_of_driven hdriven, State.drivenActive_of_complement hcomp, hpin]
  case request =>
    intro p
    refine ⟨fun hnot => State.requestLevel_of_not_driven hnot q, fun hdriven hind => ?_, fun hdriven hcomp => ?_⟩
    · rw [State.requestLevel_of_independent hdriven hind]
      cases q <;> rfl
    · intro wantA towardA towardB d
      have hwanted : q.wanted (s.line (lineA p)).active = wantA := by cases q <;> rfl
      rw [State.requestLevel_of_complement hdriven hcomp, hwanted]
      refine ⟨State.requestPair_of_not_toward, fun ⟨hwant, hstate⟩ => ?_, fun ⟨hwant, hstate⟩ => ?_⟩
      · rw [hwant, State.requestPair_towardA hstate]
        exact State.handOver_eq s p .a
      · rw [hwant, State.requestPair_towardB hstate]
        exact State.handOver_eq s p .b
  case record =>
    unfold State.requestTarget
    cases r.target <;> rfl

end

section
/-! PROOF. The CRC-8 (R172), the frames the check of R158 passes, and the flags byte (R174). -/
namespace Sys2Proof.Machine

/-! ### The CRC-8, byte by byte (R172) -/

theorem crc8_concat (l : List Byte) (b : Byte) : crc8 (l ++ [b]) = crcByte (crc8 l) b :=
  List.foldl_concat crcByte 0xFF#8 b l

theorem crcByte_eq_foldl (c b : Byte) :
    crcByte c b = (List.range 8).foldl (fun x _ => if x.msb then (x <<< 1) ^^^ 0x07#8 else x <<< 1) (c ^^^ b) :=
  rfl

theorem crcShift_zero : crcShift 0#8 = 0#8 := rfl

/-- A byte equal to the CRC so far clears it, and the shifts of 0 stay 0. -/
theorem crcByte_self (c : Byte) : crcByte c c = 0#8 := by
  simp only [crcByte, BitVec.xor_self, crcShift_zero]

theorem crc8_append_crc8 (l : List Byte) : crc8 (l ++ [crc8 l]) = 0#8 := by
  rw [crc8_concat, crcByte_self]

/-! ### The check of a request frame (R158), on a frame taken apart as R173 lays it out -/

theorem requestFrameBytes_eq (code : Byte) (payload : List Byte) :
    requestFrameBytes code payload =
      code :: nat8 payload.length :: (payload ++ [crc8 (code :: nat8 payload.length :: payload)]) :=
  rfl

theorem nat8_toNat_of_le_48 {n : Nat} (h : n ≤ 48) : (nat8 n).toNat = n :=
  Nat.mod_eq_of_lt (by omega)

/-- Three bytes or more are a code, a length byte, a payload and a last byte. -/
theorem eq_frame_of_three_le {bytes : List Byte} (h : 3 ≤ bytes.length) :
    ∃ code len payload last, bytes = code :: len :: (payload ++ [last]) := by
  match bytes, h with
  | code :: len :: b :: rest, _ =>
    exact ⟨code, len, (b :: rest).dropLast, (b :: rest).getLast (by simp), by rw [List.dropLast_concat_getLast]⟩

/-- The bytes under the CRC and the CRC byte, where the length byte tells the length of the payload. -/
theorem take_covered (code len last : Byte) (payload : List Byte) :
    (code :: len :: (payload ++ [last])).take (payload.length + 2) = code :: len :: payload := by
  simp

theorem byteAt_last (code len last : Byte) (payload : List Byte) :
    byteAt (code :: len :: (payload ++ [last])) (payload.length + 2) = last := by
  simp [byteAt]

/-- What is left when none of the refusals of R158 applies: a length byte of at most 48 that tells the number of bytes,
and the CRC over all but the last of them. -/
theorem frameProblem_none_iff (bytes : List Byte) :
    frameProblem bytes = none ↔
      (byteAt bytes 1).toNat ≤ 48 ∧ bytes.length = (byteAt bytes 1).toNat + 3 ∧
        crc8 (bytes.take ((byteAt bytes 1).toNat + 2)) = byteAt bytes ((byteAt bytes 1).toNat + 2) := by
  simp only [frameProblem, Config.maxPayload]
  generalize (byteAt bytes 1).toNat = n
  constructor
  case mp =>
    intro hpass
    split_ifs at hpass with hcut hlong hshort hover hcrc
    exact ⟨by omega, by omega, hcrc⟩
  case mpr =>
    rintro ⟨hmax, hlength, hcrc⟩
    rw [if_neg (by omega), if_neg (by omega), if_neg (by omega), if_neg (by omega), if_pos hcrc]

theorem frameProblem_frame_none_iff (code len last : Byte) (payload : List Byte) :
    frameProblem (code :: len :: (payload ++ [last])) = none ↔
      len.toNat ≤ 48 ∧ payload.length = len.toNat ∧ crc8 (code :: len :: payload) = last := by
  have hbyte : byteAt (code :: len :: (payload ++ [last])) 1 = len := rfl
  have hlength : (code :: len :: (payload ++ [last])).length = payload.length + 3 := by simp
  rw [frameProblem_none_iff, hbyte, hlength, Nat.add_right_cancel_iff]
  refine and_congr_right fun _ => and_congr_right fun hlen => ?_
  rw [← hlen, take_covered, byteAt_last]

theorem frameProblem_none_iff_laidOut (bytes : List Byte) :
    frameProblem bytes = none ↔ ∃ code payload, payload.length ≤ 48 ∧ bytes = requestFrameBytes code payload := by
  constructor
  case mp =>
    intro hpass
    have hlong : 3 ≤ bytes.length := by
      obtain ⟨_, hlength, _⟩ := (frameProblem_none_iff bytes).mp hpass
      omega
    obtain ⟨code, len, payload, last, rfl⟩ := eq_frame_of_three_le hlong
    obtain ⟨hmax, hlen, hcrc⟩ := (frameProblem_frame_none_iff code len last payload).mp hpass
    refine ⟨code, payload, hlen ▸ hmax, ?_⟩
    rw [requestFrameBytes_eq, hlen, nat8_toNat, hcrc]
  case mpr =>
    rintro ⟨code, payload, hmax, rfl⟩
    have hlen := nat8_toNat_of_le_48 hmax
    rw [requestFrameBytes_eq, frameProblem_frame_none_iff, hlen]
    exact ⟨hmax, rfl, rfl⟩

theorem framePayload_requestFrameBytes (code : Byte) {payload : List Byte} (h : payload.length ≤ 48) :
    framePayload (requestFrameBytes code payload) = payload := by
  have hbyte : byteAt (requestFrameBytes code payload) 1 = nat8 payload.length := rfl
  rw [framePayload, hbyte, nat8_toNat_of_le_48 h]
  exact List.take_left

/-! ### The flags byte (R174) -/

theorem flagsByte_eq_bits : ∀ attn collided replaced restricted : Bool,
    flagsByte attn collided replaced restricted =
      (if attn then 0x01#8 else 0#8) ||| (if collided then 0x02#8 else 0#8) ||| (if replaced then 0x04#8 else 0#8) |||
        (if restricted then 0x08#8 else 0#8) := by
  decide

end Sys2Proof.Machine

open Sys2Proof Sys2Proof.Machine

/-- Settles O6: a frame that passes is taken apart as R173 lays it out, so its length byte and its CRC are the ones of
its payload; the CRC goes byte by byte, and a byte equal to it clears it. -/
theorem frameCheckPassesLaidOutFrames : Obligations.FrameCheckPassesLaidOutFrames := by
  unfold Obligations.FrameCheckPassesLaidOutFrames
  refine ⟨⟨frameProblem_none_iff_laidOut, fun code _ hmax => framePayload_requestFrameBytes code hmax⟩,
    ⟨?start, crc8_concat, crcByte_eq_foldl, ?statusFrame, crc8_append_crc8, requestFrameBytes_eq, ?reply⟩,
    ?statuses, flagsByte_eq_bits⟩
  case start => rfl
  case statusFrame => decide +kernel
  case reply => exact fun _ _ => rfl
  case statuses => rfl

end

section
/-! PROOF. What a step can do, said once: a command is its block's work between two steps of its port, an event is its effect, and
every step is one of the works listed in Work. -/
namespace Sys2Proof.Machine

/-! ### A command and its block -/

/-- What a command's block does with the state it finds; an event has no such work. -/
def blockOf : Instr → State → State × Answer
  | .attach m => takeAttach m
  | .detach m => takeDetach m
  | .suspend m => takeSuspend m
  | .resume m => takeResume m
  | .status m => takeStatus m
  | .identify m => takeIdentify m
  | .supvClaim m => takeSupvClaim m
  | .rightsWrite m f => takeRightsWrite m f
  | .rightsRead m x => takeRightsRead m x
  | .labelWrite m l => takeLabelWrite m l
  | .tbConfig m f => takeTbConfig m f
  | .tbRun m => takeTbRun m
  | .tbHold m => takeTbHold m
  | .tbResync m => takeTbResync m
  | .tbRead _ => takeTbRead
  | .capConfig m f => takeCapConfig m f
  | .capGate m x => takeCapGate m x
  | .capRead _ x => takeCapRead x
  | .groupConfig m g mask => takeGroupConfig m g mask
  | .entryWrite m f => takeEntryWrite m f
  | .entryMask m e mask => takeEntryMask m e mask
  | .entryRead m e => takeEntryRead m e
  | .done m tag => takeDone m tag
  | .fetch m => takeFetch m
  | .attnEnable m x => takeAttnEnable m x
  | .actSubmit m f => takeActSubmit m f
  | .actModify m f => takeActModify m f
  | .actCancel m x => takeActCancel m x
  | .actRead m x => takeActRead m x
  | .actList m => takeActList m
  | .lineClaim m x => takeLineClaim m x
  | .lineRelease m x => takeLineRelease m x
  | .lineConfig m f => takeLineConfig m f
  | .lineEnable m x => takeLineEnable m x
  | .lineDisable m x => takeLineDisable m x
  | .lineRead _ x => takeLineRead x
  | .pairConfig m f => takePairConfig m f
  | .cutForce m => takeCutForce m
  | .cutRestore m x => takeCutRestore m x
  | .cutConfig m f => takeCutConfig m f
  | .cutRead _ => takeCutRead
  | .deviceReset | .resetRelease | .requestFrame _ _ | .responseRead _ _ | .responsePlacement _ | .syncEdge _ | .tick
  | .servicePeriod | .deadlineExpiry _ | .captureQualification _ _ | .cutoffPinQualification _ | .actionFiring _
  | .pulseEnd _ | .deadTimeExpiry _ | .captureSample _ _ | .cutoffPinSample _ | .syncSample _ | .requestFirstByte _ _ =>
    fun s => (s, .ok [])

/-- Every command of a master is its port's step around its block's work. -/
theorem exec_command {i : Instr} {m : Master} (h : i.requester = some m) (s : State) :
    exec i s = .next (s.request m i (blockOf i)) := by
  cases i
  case deviceReset | resetRelease | requestFrame | responseRead | responsePlacement | syncEdge | tick | servicePeriod
      | deadlineExpiry | captureQualification | cutoffPinQualification | actionFiring | pulseEnd | deadTimeExpiry
      | captureSample | cutoffPinSample | syncSample | requestFirstByte => simp [Instr.requester, encodeRequest] at h
  all_goals cases h; rfl

/-- A command that its port lets through: its block's work on the state the block finds, and the response built. -/
theorem exec_carriesOut {i : Instr} {m : Master} (hi : i.requester = some m) {s : State} (h : s.carriesOut m i = true) :
    exec i s = .next ((blockOf i (s.front m)).1.answer m (commandCode i) (blockOf i (s.front m)).2) := by
  rw [exec_command hi, State.request_carriesOut _ h]

/-- A block that refuses leaves the state it finds and answers with the status alone. -/
theorem exec_refuses {i : Instr} {m : Master} (hi : i.requester = some m) {s : State} (h : s.carriesOut m i = true)
    {st : Status} (hb : blockOf i (s.front m) = (s.front m).refuse st) :
    exec i s = .next ((s.front m).answer m (commandCode i) (.refusal st)) := by
  rw [exec_carriesOut hi h, hb]
  rfl

/-- A block's work, given as the state it leaves and its answer. -/
theorem exec_answers {i : Instr} {m : Master} (hi : i.requester = some m) {s : State} (h : s.carriesOut m i = true)
    {t : State} {a : Answer} (hb : blockOf i (s.front m) = (t, a)) :
    exec i s = .next (t.answer m (commandCode i) a) := by
  rw [exec_carriesOut hi h, hb]

/-! ### States that differ at their ports and in what is not the part's -/

/-- The same in every block: t differs from s at most in its ports, their attachment states apart, in the pins, in its queue of
commands, in its open choices and in the level of RESET. -/
structure State.Agrees (s t : State) : Prop where
  timebase : t.timebase = s.timebase
  captures : t.captures = s.captures
  groups : t.groups = s.groups
  entries : t.entries = s.entries
  queues : t.queues = s.queues
  actions : t.actions = s.actions
  lines : t.lines = s.lines
  pairs : t.pairs = s.pairs
  cutoff : t.cutoff = s.cutoff
  supervisor : t.supervisor = s.supervisor
  label : t.label = s.label
  rights : t.rights = s.rights
  attachment : ∀ m, t.attachment m = s.attachment m

namespace State.Agrees

variable {s t u : State}

theorem refl (s : State) : s.Agrees s := ⟨rfl, rfl, rfl, rfl, rfl, rfl, rfl, rfl, rfl, rfl, rfl, rfl, fun _ => rfl⟩

theorem trans (h : s.Agrees t) (g : t.Agrees u) : s.Agrees u :=
  ⟨g.timebase.trans h.timebase, g.captures.trans h.captures, g.groups.trans h.groups, g.entries.trans h.entries,
    g.queues.trans h.queues, g.actions.trans h.actions, g.lines.trans h.lines, g.pairs.trans h.pairs,
    g.cutoff.trans h.cutoff, g.supervisor.trans h.supervisor, g.label.trans h.label, g.rights.trans h.rights,
    fun m => (g.attachment m).trans (h.attachment m)⟩

theorem capture (h : s.Agrees t) (n : CapLine) : t.capture n = s.capture n := by simp only [State.capture, h.captures]
theorem entry (h : s.Agrees t) (e : EntryIx) : t.entry e = s.entry e := by simp only [State.entry, h.entries]
theorem queue (h : s.Agrees t) (m : Master) : t.queue m = s.queue m := by simp only [State.queue, h.queues]
theorem action (h : s.Agrees t) (n : Slot) : t.action n = s.action n := by simp only [State.action, h.actions]
theorem line (h : s.Agrees t) (l : OutLine) : t.line l = s.line l := by simp only [State.line, h.lines]
theorem pair (h : s.Agrees t) (p : PairIx) : t.pair p = s.pair p := by simp only [State.pair, h.pairs]
theorem right (h : s.Agrees t) (m : Master) : t.right m = s.right m := by simp only [State.right, h.rights]

theorem setPort (s : State) {m : Master} {p : Port} (h : p.attachment = s.attachment m) : s.Agrees (s.setPort m p) :=
  ⟨rfl, rfl, rfl, rfl, rfl, rfl, rfl, rfl, rfl, rfl, rfl, rfl, fun k => by
    rw [State.setPort_attachment]; split_ifs with hk
    · rw [h, hk]
    · rfl⟩

theorem front (s : State) (m : Master) : s.Agrees (s.front m) := by
  obtain ⟨p, h, hp⟩ := s.front_eq m
  rw [h]
  exact setPort s hp

theorem answer (s : State) (m : Master) (code : Byte) (a : Answer) : s.Agrees (s.answer m code a) := setPort s rfl

theorem withPending (s : State) (rest : List Instr) : s.Agrees (s.withPending rest) :=
  ⟨rfl, rfl, rfl, rfl, rfl, rfl, rfl, rfl, rfl, rfl, rfl, rfl, fun _ => rfl⟩

theorem withArbiter (s : State) (a : List Nat) : s.Agrees { s with arbiter := a } :=
  ⟨rfl, rfl, rfl, rfl, rfl, rfl, rfl, rfl, rfl, rfl, rfl, rfl, fun _ => rfl⟩

end State.Agrees
end Sys2Proof.Machine
end

section
/-! PROOF. What the works of a step are, and how an invariant is shown to be kept by every step. -/
namespace Sys2Proof.Machine

/-- Everything a step can do to the blocks of the part, with the checks that a command has passed by then. -/
inductive Work (s : State) : State → Prop
  | nothing : Work s s
  -- attachment
  | attach (m : Master) :
      Work s (((s.setAttachment m .attached).setQueue m { (s.queue m).emptied with enable := true }).attachedReactions m s.now)
  | detach (m : Master) : Work s ((s.tearDown m).inAnyOrder (s.detachHandOffs m))
  | suspend (m : Master) : Work s ((s.setAttachment m .suspended).attachChange m .suspended s.now)
  | resume (m : Master) : Work s ((s.setAttachment m .attached).attachedReactions m s.now)
  -- rights
  | supvClaim (m : Master) (free : s.supervisor = none) : Work s { s with supervisor := some m }
  | labelWrite (l : Vector Byte 16) (unwritten : s.label = none) : Work s { s with label := some l }
  | rightsWrite (c : RightsSettings) (passed : s.rightsRefusal c = none) : Work s (s.writeRights c)
  -- timebase
  | tbConfig (f : TbFields) (c : TimebaseSettings) (read : timebaseSettingsOf f = some c)
      (halted : c.prescale.isSome = true → s.timebase.run ≠ .running) : Work s (s.setTimebase (s.timebase.configure c))
  | tbRun : Work s (s.setTimebase s.timebase.toRunning)
  | tbHold : Work s (s.settle.setTimebase s.settle.timebase.toHalted)
  | resync : Work s s.resync
  | sampleSync (x : Level) : Work s (s.sampleSync x)
  | tick (running : s.timebase.run = .running) : Work s s.tick
  | servicePeriod : Work s s.servicePeriod
  | period : Work s s.countPeriods
  -- capture lines and groups
  | capConfig (f : CapFields) (n : CapLine) (x : CaptureSettings) (read : captureSettingsOf f = some x)
      (idle : (s.entry (capEntry n)).awaiting = 0#4) : Work s (s.configureCapture n x)
  | capGate (n : CapLine) : Work s (s.setCapture n (s.capture n).openGate)
  | groupConfig (g : GroupIx) (mask : CapSet) : Work s (s.setGroup g mask)
  | sampleCapture (n : CapLine) (x : Level) : Work s (s.sampleCapture n x)
  -- steering table
  | entryWrite (e : EntryIx) (c : EntrySettings) (idle : (s.entry e).awaiting = 0#4) : Work s (s.writeEntry e c)
  | entryMask (e : EntryIx) (b : Bool) : Work s (s.changeMask e b)
  | done (m : Master) (tag : Byte) : Work s (s.complyDone m tag)
  | expire (e : EntryIx) : Work s (s.expire e)
  -- notice queues
  | fetch (m : Master) (n : Notice) (rest : List Notice) (oldest : (s.queue m).notices = n :: rest) :
      Work s (s.setQueue m ((s.queue m).afterFetch rest s.now))
  | attnEnable (m : Master) (b : Bool) : Work s (s.setQueue m { s.queue m with enable := b })
  -- action schedule
  | actSubmit (n : Slot) (r : ActionRecord) (targeted : s.targetRefusal r.owner r.target = none)
      (below : s.held r.owner < (s.right r.owner).quota) (empty : s.action n = none) : Work s (s.setAction n (some r))
  | actModify (n : Slot) (r : ActionRecord) (u : StagedUpdate) (present : s.action n = some r) :
      Work s (s.setAction n (some { r with staged := some u }))
  | actCancel (n : Slot) (r : ActionRecord) (present : s.action n = some r) : Work s (s.cancelAction n r)
  | actRead : Work s s.settle
  | takeFire (n : Slot) : Work s (s.takeFire n)
  | takeEnd (n : Slot) : Work s (s.takeEnd n)
  -- output lines
  | expireDeadTime (p : PairIx) : Work s (s.expireDeadTime p)
  | lineClaim (m : Master) (l : OutLine) (free : (s.line l).drive = .float) :
      Work s (s.changeLines (s.together l) (OutputLine.claimed m))
  | lineRelease (l : OutLine) (driven : (s.line l).drive ≠ .driven) (cut : (s.line l).drive ≠ .cut) :
      Work s (s.changeLines (s.together l) OutputLine.released)
  | lineConfig (l : OutLine) (c : LineSettings) (disabled : (s.line l).drive = .disabled)
      (agrees : s.complementB l = true → c.cutEnable = s.pairCutEnable l) : Work s (s.configureLine l c)
  | lineEnable (l : OutLine) (first : s.complementB l = false) (disabled : (s.line l).drive = .disabled)
      (safe : (s.line l).cutEnable = true → s.cutoff.state ≠ .tripped) : Work s (s.enableLine l)
  | lineDisable (l : OutLine) (first : s.complementB l = false) (driven : (s.line l).drive = .driven)
      (unused : s.lineInUse l = false) : Work s (s.disableLine l)
  | pairConfig (m : Master) (p : PairIx) (mode : PairMode) (d : Nat) (passed : s.pairRefusal m p mode = none) :
      Work s (s.setPair p { s.pair p with mode := mode, deadTime := d })
  -- cutoff
  | cutForce (m : Master) : Work s (s.momentary (.force m) s.now)
  | cutRestore (m : Master) (lines : LineSet) (passed : s.restoreRefusal m lines = none) : Work s (s.restoreLines lines)
  | cutConfig (x : PinSettings) : Work s ((s.setCutoff (s.cutoff.configure x)).pinChanged s.cutoff.pinAsserted s.now)
  | sampleCutoff (x : Level) : Work s (s.sampleCutoff x)

/-! ### The commands -/

theorem State.ownRecord_inr {s : State} {m : Master} {slot : Byte} {n : Slot} {r : ActionRecord}
    (h : s.ownRecord m slot = .inr (n, r)) : s.action n = some r := by
  unfold State.ownRecord at h
  split at h
  · cases h
  · split at h
    · cases h
    · next k _ x hx =>
      split at h <;> cases h
      exact hx

theorem State.addressedLine_some {s : State} {line : Byte} {l : OutLine} (h : s.addressedLine line = some l) :
    s.complementB l = false := by
  unfold State.addressedLine at h
  split at h
  · cases h
  · split at h <;> cases h
    next hb => simpa using hb

theorem blockOf_work (i : Instr) (s : State) : Work s (blockOf i s).1 := by
  cases i
  case attach m => exact .attach m
  case detach m =>
    simp only [blockOf, takeDetach]
    split
    · exact .nothing
    · exact .detach m
  case suspend m => exact .suspend m
  case resume m => exact .resume m
  case supvClaim m =>
    simp only [blockOf, takeSupvClaim]
    split
    · next h => exact .supvClaim m h
    · exact .nothing
  case rightsWrite m f =>
    simp only [blockOf, takeRightsWrite]
    split
    · exact .nothing
    · split
      · exact .nothing
      · next c _ =>
        split
        · exact .nothing
        · next h => exact .rightsWrite c h
  case rightsRead m x =>
    simp only [blockOf, takeRightsRead]
    split
    · exact .nothing
    · split <;> exact .nothing
  case labelWrite m l =>
    simp only [blockOf, takeLabelWrite]
    split
    · exact .nothing
    · split
      · exact .nothing
      · next h => exact .labelWrite l (by simpa using h)
  case tbConfig m f =>
    simp only [blockOf, takeTbConfig]
    split
    · exact .nothing
    · split
      · exact .nothing
      · next c hc =>
        split
        · exact .nothing
        · next h => exact .tbConfig f c hc (by simpa using h)
  case tbRun m =>
    simp only [blockOf, takeTbRun]
    split
    · exact .tbRun
    · exact .nothing
  case tbHold m =>
    simp only [blockOf, takeTbHold]
    split
    · exact .tbHold
    · exact .nothing
  case tbResync m =>
    simp only [blockOf, takeTbResync]
    split
    · exact .resync
    · exact .nothing
  case capConfig m f =>
    simp only [blockOf, takeCapConfig]
    split
    · exact .nothing
    · next n _ =>
      split
      · exact .nothing
      · split
        · exact .nothing
        · next x hx =>
          split
          · exact .nothing
          · next h => exact .capConfig f n x hx (not_not.mp h)
  case capGate m x =>
    simp only [blockOf, takeCapGate]
    split
    · exact .nothing
    · next n _ =>
      split
      · exact .nothing
      · exact .capGate n
  case capRead m x =>
    simp only [blockOf, takeCapRead]
    split <;> exact .nothing
  case groupConfig m g mask =>
    simp only [blockOf, takeGroupConfig]
    split
    · exact .nothing
    · next g _ =>
      split
      · exact .nothing
      · exact .groupConfig g mask
  case entryWrite m f =>
    simp only [blockOf, takeEntryWrite]
    split
    · exact .nothing
    · next e _ =>
      split
      · exact .nothing
      · split
        · exact .nothing
        · next c _ =>
          split
          · exact .nothing
          · split
            · exact .nothing
            · next h => exact .entryWrite e c (not_not.mp h)
  case entryMask m e mask =>
    simp only [blockOf, takeEntryMask]
    split
    · next e b _ _ =>
      split
      · exact .nothing
      · exact .entryMask e b
    · exact .nothing
  case entryRead m e =>
    simp only [blockOf, takeEntryRead]
    split
    · exact .nothing
    · split <;> exact .nothing
  case done m tag => exact .done m tag
  case fetch m =>
    simp only [blockOf, takeFetch]
    split
    · exact .nothing
    · next n rest h => exact .fetch m n rest h
  case attnEnable m x =>
    simp only [blockOf, takeAttnEnable]
    split
    · exact .nothing
    · next b _ => exact .attnEnable m b
  case actSubmit m f =>
    simp only [blockOf, takeActSubmit]
    split
    · exact .nothing
    · next x _ =>
      split
      · exact .nothing
      · next ht =>
        split
        · exact .nothing
        · next due _ =>
          split
          · unfold State.placeRecord
            split
            · exact .nothing
            · next hq =>
              split
              · exact .nothing
              · next n hn => exact .actSubmit n _ ht (not_le.mp hq) (by simpa using List.find?_some hn)
          · exact .nothing
  case actModify m f =>
    simp only [blockOf, takeActModify]
    split
    · exact .nothing
    · next n r h =>
      split_ifs
      · exact .nothing
      · exact .nothing
      · exact .actModify n r _ (State.ownRecord_inr h)
  case actCancel m x =>
    simp only [blockOf, takeActCancel]
    split
    · exact .nothing
    · next n r h => exact .actCancel n r (State.ownRecord_inr h)
  case actRead m x =>
    simp only [blockOf, takeActRead]
    split <;> exact .actRead
  case lineClaim m x =>
    simp only [blockOf, takeLineClaim]
    split
    · exact .nothing
    · next l _ =>
      split_ifs
      · exact .nothing
      · exact .nothing
      · next h => exact .lineClaim m l (not_not.mp h)
  case lineRelease m x =>
    simp only [blockOf, takeLineRelease]
    split
    · exact .nothing
    · next l _ =>
      split_ifs
      · exact .nothing
      · exact .nothing
      · next h => exact .lineRelease l (fun hd => h (.inl hd)) fun hc => h (.inr hc)
  case lineConfig m f =>
    simp only [blockOf, takeLineConfig]
    split
    · next l c _ _ =>
      split_ifs
      · exact .nothing
      · exact .nothing
      · exact .nothing
      · next hd ha => exact .lineConfig l c (not_not.mp hd) (by simpa using ha)
    · exact .nothing
  case lineEnable m x =>
    simp only [blockOf, takeLineEnable]
    split
    · exact .nothing
    · next l hl =>
      split
      · exact .nothing
      · split
        · exact .nothing
        · exact .nothing
        · exact .nothing
        · next hd =>
          split
          · exact .nothing
          · next hc => exact .lineEnable l (State.addressedLine_some hl) hd (by simpa using hc)
  case lineDisable m x =>
    simp only [blockOf, takeLineDisable]
    split
    · exact .nothing
    · next l hl =>
      split
      · exact .nothing
      · split
        · exact .nothing
        · exact .nothing
        · exact .nothing
        · next hd =>
          split
          · exact .nothing
          · next hu => exact .lineDisable l (State.addressedLine_some hl) hd (by simpa using hu)
  case lineRead m x =>
    simp only [blockOf, takeLineRead]
    split <;> exact .nothing
  case pairConfig m f =>
    simp only [blockOf, takePairConfig]
    split
    · next p mode d _ _ _ =>
      split
      · exact .nothing
      · next h => exact .pairConfig m p mode d h
    · exact .nothing
  case cutForce m =>
    simp only [blockOf, takeCutForce]
    split
    · exact .cutForce m
    · exact .nothing
  case cutRestore m lines =>
    simp only [blockOf, takeCutRestore]
    split
    · exact .nothing
    · next h => exact .cutRestore m lines h
  case cutConfig m f =>
    simp only [blockOf, takeCutConfig]
    split
    · exact .nothing
    · split
      · exact .nothing
      · next x _ => exact .cutConfig x
  all_goals exact .nothing

/-! ### The events -/

/-- The moves of a port: what stands of the rest of the part. -/
theorem Port.place_attachment (p : Port) : p.place.attachment = p.attachment := by
  unfold Port.place
  split <;> rfl

theorem Port.firstByte_attachment (p : Port) (b : Byte) : (p.firstByte b).attachment = p.attachment := by
  unfold Port.firstByte
  split <;> rfl

theorem State.readResponse_agrees (s : State) (m : Master) (clocked : Nat) : s.Agrees (s.readResponse m clocked) := by
  unfold State.readResponse
  dsimp only
  split
  · exact .refl s
  · refine .setPort s ?_
    split <;> rfl
  · exact .setPort s rfl
  · exact .setPort s rfl

theorem State.frameEnds_agrees (s : State) (m : Master) (first : Byte) (bytes : List Byte) :
    s.Agrees (s.frameEnds m first bytes) := by
  unfold State.frameEnds
  split
  · exact .setPort s rfl
  · split
    · exact .setPort s rfl
    · unfold State.takeFrame
      have hacc : s.Agrees (s.setPort m (s.port m).accept) := .setPort s rfl
      dsimp only
      split
      · exact hacc.trans (.answer _ m _ _)
      · exact hacc.trans (.setPort _ rfl)

theorem State.periodEnds_agrees {s : State} {f : State → State} (m : Master) (h : s.Agrees (f s)) :
    s.Agrees (s.periodEnds m f) := by
  unfold State.periodEnds
  dsimp only
  split
  · exact .setPort s rfl
  · exact h.trans (.setPort _ rfl)

/-- Reset: every block has its device reset values (R156). -/
theorem deviceReset_agrees {s t : State} (h : exec .deviceReset s = .next t) : State.reset.Agrees t := by
  cases h
  refine ⟨rfl, rfl, rfl, rfl, rfl, rfl, rfl, rfl, rfl, rfl, rfl, rfl, fun m => ?_⟩
  simp [State.attachment, State.port, Port.deviceReset, Port.reset, State.reset]

theorem resetRelease_agrees {s t : State} (h : exec .resetRelease s = .next t) : s.Agrees t := by
  cases h
  split
  · refine ⟨rfl, rfl, rfl, rfl, rfl, rfl, rfl, rfl, rfl, rfl, rfl, rfl, fun m => ?_⟩
    simp [State.attachment, State.port, Port.released]
  · exact .refl s

/-- A step that is one work, between moves of the ports. -/
def State.Worked (s t : State) : Prop := ∃ u v, s.Agrees u ∧ Work u v ∧ v.Agrees t

theorem State.Worked.of_work {s t : State} (h : Work s t) : s.Worked t := ⟨s, t, .refl s, h, .refl t⟩

theorem State.Worked.of_agrees {s t : State} (h : s.Agrees t) : s.Worked t := ⟨s, s, .refl s, .nothing, h⟩

theorem State.Worked.agrees_left {s t u : State} (h : s.Agrees t) (w : t.Worked u) : s.Worked u := by
  obtain ⟨x, y, hx, hw, hy⟩ := w
  exact ⟨x, y, h.trans hx, hw, hy⟩

theorem State.Worked.agrees_right {s t u : State} (w : s.Worked t) (h : t.Agrees u) : s.Worked u := by
  obtain ⟨x, y, hx, hw, hy⟩ := w
  exact ⟨x, y, hx, hw, hy.trans h⟩

theorem State.event_worked {s : State} {f : State → State} (h : Work s (f s)) : s.Worked (s.event f) :=
  State.event_keeps (P := fun t => s.Worked t) (.of_agrees (.refl s)) (.of_work h)

theorem request_worked (i : Instr) (m : Master) (s : State) : s.Worked (s.request m i (blockOf i)) := by
  rcases s.request_cases m i (blockOf i) with h | ⟨p, h, hp⟩ | ⟨a, h⟩ | h <;> rw [h]
  · exact .of_agrees (.refl s)
  · exact .of_agrees (.setPort s hp)
  · exact .of_agrees ((State.Agrees.front s m).trans (.answer _ m _ a))
  · exact ⟨_, _, .front s m, blockOf_work i _, .answer _ m _ _⟩

/-- Every command and every event but DEVICE_RESET is one work. -/
theorem exec_worked {i : Instr} {s t : State} (hi : i ≠ .deviceReset) (h : exec i s = .next t) : s.Worked t := by
  cases i
  case deviceReset => exact absurd rfl hi
  case resetRelease => exact .of_agrees (resetRelease_agrees h)
  case requestFrame m bytes =>
    cases h
    refine .of_agrees (State.periodEnds_agrees m ?_)
    split
    · exact .refl s
    · split
      · exact s.readResponse_agrees m _
      · exact s.frameEnds_agrees m _ _
  case responseRead m clocked =>
    cases h
    exact .of_agrees (State.periodEnds_agrees m (s.readResponse_agrees m clocked))
  case responsePlacement m =>
    cases h
    exact State.event_keeps (P := fun t => s.Worked t) (.of_agrees (.refl s))
      (.of_agrees (.setPort s (s.port m).place_attachment))
  case requestFirstByte m b =>
    cases h
    refine .of_agrees ?_
    split
    · exact .setPort s rfl
    · exact .setPort s ((s.port m).firstByte_attachment b)
  case syncEdge x =>
    cases h
    refine State.event_worked ?_
    split
    · exact .sampleSync x
    · exact .nothing
  case tick =>
    cases h
    refine State.event_worked ?_
    split
    · next hr => exact .tick hr
    · exact .nothing
  case servicePeriod => cases h; exact State.event_worked .servicePeriod
  case deadlineExpiry e =>
    cases h
    refine State.event_worked ?_
    split
    · exact .expire e
    · exact .nothing
  case captureQualification n x =>
    cases h
    refine State.event_worked ?_
    split
    · exact .sampleCapture n x
    · exact .nothing
  case cutoffPinQualification x =>
    cases h
    refine State.event_worked ?_
    split
    · exact .sampleCutoff x
    · exact .nothing
  case actionFiring n => cases h; exact State.event_worked (.takeFire n)
  case pulseEnd n => cases h; exact State.event_worked (.takeEnd n)
  case deadTimeExpiry p => cases h; exact State.event_worked (.expireDeadTime p)
  case captureSample n x => cases h; exact State.event_worked (.sampleCapture n x)
  case cutoffPinSample x => cases h; exact State.event_worked (.sampleCutoff x)
  case syncSample x => cases h; exact State.event_worked (.sampleSync x)
  all_goals
    rw [exec_command rfl] at h
    cases h
    exact request_worked _ _ s

/-! ### The step -/

theorem State.referencePeriod_worked (s : State) : s.Worked s.referencePeriod := by
  have hcount : s.Worked s.countPeriods := .of_work .period
  unfold State.referencePeriod
  dsimp only
  split
  · exact hcount
  · exact hcount.agrees_right (.withPending _ _)
  · exact hcount.agrees_right ((State.Agrees.withArbiter _ _).trans (.withPending _ _))

theorem State.ownState_agrees (s : State) : s.Agrees s.ownState := by
  unfold State.ownState
  split
  · exact .refl s
  · exact .withArbiter s _

theorem exec_cases {i : Instr} {s t : State} (h : exec i s = .next t) : State.reset.Agrees t ∨ s.Worked t := by
  by_cases hi : i = .deviceReset
  · subst hi
    exact .inl (deviceReset_agrees h)
  · exact .inr (exec_worked hi h)

/-- Every step is device reset, or one work. -/
theorem step_cases {s t : State} (h : step s = .next t) : State.reset.Agrees t ∨ s.Worked t := by
  unfold step at h
  split at h
  · exact (exec_cases h).imp id (.agrees_left (.withPending s _))
  · split at h
    · exact (exec_cases h).imp id (.agrees_left s.ownState_agrees)
    · cases h
      exact .inr (.agrees_left s.ownState_agrees
        (State.event_keeps (P := fun t => s.ownState.Worked t) (.of_agrees (.refl _)) s.ownState.referencePeriod_worked))

/-- What the blocks alone decide, and reset has, and every work keeps, every step keeps. -/
theorem step_keeps {P : State → Prop} (blocks : ∀ s t, s.Agrees t → P s → P t) (reset : P State.reset)
    (work : ∀ s t, Work s t → P s → P t) {s t : State} (hs : P s) (h : step s = .next t) : P t := by
  rcases step_cases h with hr | ⟨u, v, hu, hw, hv⟩
  · exact blocks _ t hr reset
  · exact blocks v t hv (work u v hw (blocks s u hu hs))

end Sys2Proof.Machine
end

section
/-! PROOF. The state after reset has what every step keeps. -/
namespace Sys2Proof.Machine

/-! ### The parts after reset -/

@[simp] theorem State.reset_capture (n : CapLine) : State.reset.capture n = CaptureLine.reset := by
  simp [State.capture, State.reset]
@[simp] theorem State.reset_entry (e : EntryIx) : State.reset.entry e = Entry.reset := by
  simp [State.entry, State.reset]
@[simp] theorem State.reset_queue (m : Master) : State.reset.queue m = NoticeQueue.reset := by
  simp [State.queue, State.reset]
@[simp] theorem State.reset_action (n : Slot) : State.reset.action n = none := by
  simp [State.action, State.reset]
@[simp] theorem State.reset_line (l : OutLine) : State.reset.line l = OutputLine.reset := by
  simp [State.line, State.reset]
@[simp] theorem State.reset_pair (p : PairIx) : State.reset.pair p = Pair.reset := by
  simp [State.pair, State.reset]
@[simp] theorem State.reset_right (m : Master) : State.reset.right m = Rights.reset := by
  simp [State.right, State.reset]
@[simp] theorem State.reset_timebase : State.reset.timebase = Timebase.reset := rfl
@[simp] theorem State.reset_cutoff : State.reset.cutoff = Cutoff.reset := rfl

/-- A count is that of the members a condition holds of, so it is 0 when it holds of none. -/
theorem countOf_eq_zero {w : Nat} {f : Fin w → Bool} (h : ∀ i, f i = false) : countOf w f = 0 := by
  unfold countOf
  rw [List.countP_eq_zero]
  intro i _
  simp [h i]

/-! ### The invariants, one by one -/

theorem State.reset_queuesSound : State.reset.queuesSound := fun m => by
  simp [NoticeQueue.sound, NoticeQueue.reset]

theorem State.reset_timebase_sound : State.reset.timebase.sound := by
  simp [Timebase.sound, Timebase.reset]

theorem State.reset_capturesSound : State.reset.capturesSound := fun n => by
  simp [CaptureLine.sound, CaptureLine.reset, Filter.reset]

theorem State.reset_quotasSound : State.reset.quotasSound := by
  refine ⟨fun m => ?_, by simp [State.quotaSum, Rights.reset, Config.resetQuota]⟩
  rw [State.held, countOf_eq_zero fun n => by simp]
  exact Nat.zero_le _

theorem State.reset_linesSound : State.reset.linesSound :=
  ⟨fun l => by simp [OutputLine.reset], fun p _ => by simp⟩

theorem State.reset_cutoffSound : State.reset.cutoffSound := by
  simp [State.cutoffSound, Cutoff.reset, OutputLine.reset]

theorem State.reset_pairsSound : State.reset.pairsSound := fun p => by
  simp [Pair.reset, State.complement]

theorem State.reset_recordsSound : State.reset.recordsSound := fun n r l h => by simp at h

theorem State.reset_entriesSound : State.reset.entriesSound := fun e => by
  simp [Entry.reset]

end Sys2Proof.Machine

open Sys2Proof Sys2Proof.Machine

/-- Settles O50: part by part, each part being at its device reset value. -/
theorem resetMeetsEveryInvariant : Obligations.ResetMeetsEveryInvariant :=
  ⟨State.reset_queuesSound, State.reset_timebase_sound, State.reset_capturesSound, State.reset_quotasSound,
    State.reset_linesSound, State.reset_cutoffSound, State.reset_pairsSound, State.reset_recordsSound,
    State.reset_entriesSound⟩

end

section
/-! PROOF. Every step keeps the bound of the queues and their overflow records (R74, R77, R78). -/
namespace Sys2Proof.Machine

/-! ### One queue -/

theorem or_single_ne_zero {w : Nat} (x : BitVec w) {n : Nat} (h : n < w) : x ||| single n ≠ 0#w := by
  intro h0
  have hbit : (x ||| single n).getLsbD n = true := by simp [single_getLsbD, h]
  rw [h0] at hbit
  simp at hbit

/-- A notice appended below 16, or merged at 16: the two sides of R77. -/
theorem NoticeQueue.takeIn_sound {q : NoticeQueue} {n : Notice} (hq : q.sound) (hn : n.lostSource < 25) :
    (q.takeIn n).sound := by
  obtain ⟨hlen, hmax, hfull, hfirst, hsources⟩ := hq
  by_cases hroom : q.notices.length < 16
  · have hnone : q.losses = 0 := by
      by_contra hl
      exact absurd (hfull hl) (by omega)
    rw [takeIn_of_room hroom]
    exact ⟨by simp; omega, hmax, fun hl => absurd hnone hl, hfirst, hsources⟩
  · rw [takeIn_of_full (by omega)]
    have hpos : min (q.losses + 1) Config.lossCeiling ≠ 0 := by simp [Config.lossCeiling]
    refine ⟨hlen, Nat.min_le_right _ _, fun _ => by simp only [NoticeQueue.merge]; omega, ?_, ?_⟩
    · simp only [NoticeQueue.merge, hpos, iff_false]
      split
      · simp
      · next hl => exact fun h0 => hl (hfirst.mp h0)
    · simp only [NoticeQueue.merge, hpos, iff_false]
      exact or_single_ne_zero _ hn

theorem NoticeQueue.emptied_sound (q : NoticeQueue) : q.emptied.sound := by
  simp [NoticeQueue.sound, NoticeQueue.emptied]

/-- R80, R81: one place is freed, and an overflow record that was full takes it as a notice. -/
theorem NoticeQueue.afterFetch_sound {q : NoticeQueue} {n : Notice} {rest : List Notice} (t : Timestamp) (hq : q.sound)
    (hn : q.notices = n :: rest) : (q.afterFetch rest t).sound := by
  obtain ⟨hlen, hmax, hfull, hfirst, hsources⟩ := hq
  have hrest : rest.length + 1 = q.notices.length := by rw [hn]; rfl
  unfold NoticeQueue.afterFetch
  split
  · simp [NoticeQueue.sound, NoticeQueue.emptied]
    omega
  · next hover =>
    have hzero : q.losses = 0 := by simpa [NoticeQueue.overflowing] using hover
    exact ⟨by simp only; omega, hmax, fun hl => absurd hzero hl, hfirst, hsources⟩

/-! ### The notices the blocks hand on: each stands for an entry or for the ACTION indicator -/

theorem State.entryNotice_lostSource (s : State) (e : EntryIx) (t : Timestamp) (b : NoticeBody) :
    (s.entryNotice e t b).lostSource < 25 := by
  have he : (s.entryNotice e t b).source.val < 25 := Nat.lt_succ_of_lt e.isLt
  unfold Notice.lostSource
  split <;> omega

theorem actionDone_lostSource (n : Slot) (r : ActionRecord) (t : Timestamp) : (actionDone n r t).lostSource < 25 :=
  Nat.lt_succ_self 24

theorem actionCancelled_lostSource (n : Slot) (r : ActionRecord) (reason : CancelReason) (t : Timestamp) :
    (actionCancelled n r reason t).lostSource < 25 :=
  Nat.lt_succ_self 24

/-! ### The operations that hand notices on -/

namespace State.queuesSound

variable {s u : State}

theorem of_queues_eq (h : s.queuesSound) (e : u.queues = s.queues := by rfl) : u.queuesSound := fun m => by
  simpa only [State.queue, e] using h m

/-- Each queue stands or takes in one notice. -/
theorem of_takeIn (h : s.queuesSound) {n : Notice} (hn : n.lostSource < 25) {p : Master → Prop} [DecidablePred p]
    (e : ∀ m, u.queue m = if p m then (s.queue m).takeIn n else s.queue m) : u.queuesSound := fun m => by
  rw [e]
  split
  · exact NoticeQueue.takeIn_sound (h m) hn
  · exact h m

theorem setQueue (h : s.queuesSound) {q : NoticeQueue} (m : Master) (hq : q.sound) : (s.setQueue m q).queuesSound :=
  fun k => by
    rw [State.setQueue_queue]
    split
    · exact hq
    · exact h k

theorem hand (h : s.queuesSound) (m : Master) {n : Notice} (hn : n.lostSource < 25) : (s.hand m n).queuesSound :=
  h.of_takeIn hn fun k => State.hand_queue s m n k

theorem edgeEvent (h : s.queuesSound) (e : EntryIx) (t : Timestamp) (b : NoticeBody) : (s.edgeEvent e t b).queuesSound :=
  h.of_takeIn (s.entryNotice_lostSource e t b) fun k => State.edgeEvent_queue s e t b k

theorem cutoffChange (h : s.queuesSound) (st : CutState) (trip : Option Trip) (t : Timestamp) :
    (s.cutoffChange st trip t).queuesSound :=
  h.edgeEvent _ _ _

theorem attachChange (h : s.queuesSound) (m : Master) (a : Attachment) (t : Timestamp) :
    (s.attachChange m a t).queuesSound :=
  h.edgeEvent _ _ _

theorem attempt (h : s.queuesSound) (e : EntryIx) (t : Timestamp) : (s.attempt e t).queuesSound :=
  h.of_takeIn (s.entryNotice_lostSource e t .levelEvent) fun k => State.attempt_queue s e t k

theorem assertion (h : s.queuesSound) (e : EntryIx) (t : Timestamp) : (s.assertion e t).queuesSound := by
  unfold State.assertion
  split
  · exact h.attempt e t
  · exact h

theorem resample (h : s.queuesSound) (e : EntryIx) (t : Timestamp) : (s.resample e t).queuesSound := by
  have hset : ∀ x, (s.setEntry e x).queuesSound := fun x => h.of_queues_eq
  unfold State.resample
  dsimp only
  split
  · exact (hset _).attempt e t
  · exact hset _

theorem leaveAwaiting (h : s.queuesSound) (m : Master) (t : Timestamp) (e : EntryIx) :
    (s.leaveAwaiting m t e).queuesSound := by
  unfold State.leaveAwaiting
  dsimp only
  split
  · exact h.resample e t
  · exact h.of_queues_eq

theorem expire (h : s.queuesSound) (e : EntryIx) : (s.expire e).queuesSound := by
  refine State.queuesSound.resample ?_ e _
  unfold State.reportLapse
  split
  · exact h.hand _ (s.entryNotice_lostSource e _ _)
  · exact h

theorem cancelRecords (h : s.queuesSound) (p : ActionRecord → Bool) (reason : CancelReason) (t : Timestamp) :
    (s.cancelRecords p reason t).queuesSound := by
  refine of_queues_eq (s := s.notifyCancelled p reason t) ?_ (State.dropRecords_queues _ p)
  unfold State.notifyCancelled
  refine List.foldlRecOn (motive := State.queuesSound) _ _ h fun u hu n _ => ?_
  split
  · split
    · exact hu.hand _ (actionCancelled_lostSource n _ reason t)
    · exact hu
  · exact hu

theorem inAnyOrder (h : s.queuesSound) {handOffs : List (State → State)}
    (keeps : ∀ f ∈ handOffs, ∀ u : State, u.queuesSound → (f u).queuesSound) : (s.inAnyOrder handOffs).queuesSound :=
  State.inAnyOrder_keeps (fun _ => h) keeps

/-! #### The Cutoff Unit -/

theorem trip (h : s.queuesSound) (src : CutSource) (t : Timestamp) : (s.trip src t).queuesSound := by
  refine inAnyOrder (h.of_queues_eq (by simp)) fun f hf u hu => ?_
  rcases List.mem_append.mp hf with hf | hf
  · obtain ⟨-, hf⟩ := mem_unless.mp hf
    rw [List.mem_singleton.mp hf]
    exact hu.cancelRecords _ _ _
  · rw [List.mem_singleton.mp hf]
    exact hu.cutoffChange _ _ _

theorem sourceAsserts (h : s.queuesSound) (src : CutSource) (t : Timestamp) : (s.sourceAsserts src t).queuesSound := by
  unfold State.sourceAsserts
  split
  · exact h.trip src t
  · exact h.of_queues_eq

theorem rearmCheck (h : s.queuesSound) (t : Timestamp) : (s.rearmCheck t).queuesSound := by
  unfold State.rearmCheck
  split
  · exact cutoffChange h.of_queues_eq _ _ _
  · exact h

theorem momentary (h : s.queuesSound) (src : CutSource) (t : Timestamp) : (s.momentary src t).queuesSound :=
  (h.sourceAsserts src t).rearmCheck t

theorem joinSource (h : s.queuesSound) (src : CutSource) (t : Timestamp) : (s.joinSource src t).queuesSound :=
  sourceAsserts h.of_queues_eq src t

theorem leaveSource (h : s.queuesSound) (src : CutSource) (t : Timestamp) : (s.leaveSource src t).queuesSound :=
  rearmCheck h.of_queues_eq t

theorem pinChanged (h : s.queuesSound) (before : Bool) (t : Timestamp) : (s.pinChanged before t).queuesSound := by
  unfold State.pinChanged
  split
  · exact h.joinSource _ t
  · exact h.leaveSource _ t
  · exact h
  · exact h

/-! #### The Capture Lines -/

theorem eventHandOffs (s : State) {n : CapLine} {t : Timestamp} {v : CaptureEvent} {f : State → State}
    (hf : f ∈ s.eventHandOffs n t v) (h : u.queuesSound) : (f u).queuesSound := by
  rcases List.mem_append.mp hf with hf | hf
  · rw [List.mem_singleton.mp hf]
    cases v
    · exact h.edgeEvent _ _ _
    · exact h.assertion _ t
    · exact h.of_queues_eq (by simp [State.eventAtEntry])
  · split at hf
    · rw [List.mem_singleton.mp hf]
      cases v
      · exact h.momentary _ t
      · exact h.joinSource _ t
      · exact h.leaveSource _ t
    · cases hf

theorem groupHandOffs (s : State) {n : CapLine} {t : Timestamp} {f : State → State} (hf : f ∈ s.groupHandOffs n t)
    (h : u.queuesSound) : (f u).queuesSound := by
  obtain ⟨g, -, rfl⟩ := List.mem_map.mp hf
  exact h.edgeEvent _ _ _

theorem sampleCapture (h : s.queuesSound) (n : CapLine) (x : Level) : (s.sampleCapture n x).queuesSound := by
  unfold State.sampleCapture
  dsimp only
  split
  · unfold State.qualifiedChange
    split
    · exact inAnyOrder h.of_queues_eq fun f hf u hu => groupHandOffs _ hf hu
    · refine inAnyOrder h.of_queues_eq fun f hf u hu => ?_
      rcases List.mem_append.mp hf with hf | hf
      · exact groupHandOffs _ hf hu
      · exact eventHandOffs _ hf hu
  · split
    · exact h.of_queues_eq
    · exact h.of_queues_eq (by simp)

theorem gateHandOff (s : State) {n : CapLine} {x : CaptureSettings} {f : State → State} (hf : f ∈ s.gateHandOff n x)
    (h : u.queuesSound) : (f u).queuesSound := by
  unfold State.gateHandOff at hf
  split at hf
  · cases hf
  · obtain ⟨-, hf⟩ := mem_unless.mp hf
    rw [List.mem_singleton.mp hf]
    exact h.cancelRecords _ _ _

theorem configureCapture (h : s.queuesSound) (n : CapLine) (x : CaptureSettings) :
    (s.configureCapture n x).queuesSound := by
  unfold State.configureCapture
  dsimp only
  split
  · exact inAnyOrder h.of_queues_eq fun f hf u hu => gateHandOff s hf hu
  · refine inAnyOrder h.of_queues_eq fun f hf u hu => ?_
    rcases List.mem_append.mp hf with hf | hf
    · exact gateHandOff s hf hu
    · exact eventHandOffs s hf hu

/-! #### The Steering Table's commands -/

theorem writeEntry (h : s.queuesSound) (e : EntryIx) (c : EntrySettings) : (s.writeEntry e c).queuesSound := by
  refine inAnyOrder h.of_queues_eq fun f hf u hu => ?_
  rcases List.mem_append.mp hf with hf | hf
  · unfold State.writeAttempt at hf
    split at hf
    · rw [List.mem_singleton.mp hf]
      exact hu.attempt e _
    · cases hf
  · unfold State.flagHandOff at hf
    split at hf
    · cases hf
    · split at hf
      · split at hf
        · rw [List.mem_singleton.mp hf]; exact hu.joinSource _ _
        · rw [List.mem_singleton.mp hf]; exact hu.leaveSource _ _
        · cases hf
        · cases hf
      · cases hf

theorem changeMask (h : s.queuesSound) (e : EntryIx) (b : Bool) : (s.changeMask e b).queuesSound := by
  unfold State.changeMask
  dsimp only
  split
  · split
    · exact attempt h.of_queues_eq e _
    · exact h.of_queues_eq
  · exact h.of_queues_eq
  · exact h
  · exact h

theorem complyDone (h : s.queuesSound) (m : Master) (tag : Byte) : (s.complyDone m tag).queuesSound := by
  refine h.inAnyOrder fun f hf u hu => ?_
  obtain ⟨e, -, rfl⟩ := List.mem_map.mp hf
  exact hu.leaveAwaiting m _ e

theorem takeExpiries (h : s.queuesSound) : s.takeExpiries.queuesSound := by
  refine h.inAnyOrder fun f hf u hu => ?_
  obtain ⟨e, -, rfl⟩ := List.mem_map.mp hf
  exact hu.expire e

/-! #### Attachment -/

theorem attachedReactions (h : s.queuesSound) (m : Master) (t : Timestamp) : (s.attachedReactions m t).queuesSound := by
  refine h.inAnyOrder fun f hf u hu => ?_
  rcases List.mem_append.mp hf with hf | hf
  · obtain ⟨e, -, rfl⟩ := List.mem_map.mp hf
    exact hu.attempt e t
  · rw [List.mem_singleton.mp hf]
    exact hu.attachChange _ _ _

theorem detach (h : s.queuesSound) (m : Master) : ((s.tearDown m).inAnyOrder (s.detachHandOffs m)).queuesSound := by
  have hdown : (s.tearDown m).queuesSound :=
    of_queues_eq (s := (s.setAttachment m .detached).setQueue m (s.queue m).emptied)
      (setQueue h.of_queues_eq m (s.queue m).emptied_sound) (by simp [State.tearDown])
  refine hdown.inAnyOrder fun f hf u hu => ?_
  rcases List.mem_append.mp hf with hf | hf
  · rcases List.mem_append.mp hf with hf | hf
    · obtain ⟨e, -, rfl⟩ := List.mem_map.mp hf
      exact hu.leaveAwaiting m _ e
    · split at hf
      · rw [List.mem_singleton.mp hf]; exact hu.rearmCheck _
      · cases hf
  · rw [List.mem_singleton.mp hf]
    exact hu.attachChange _ _ _

/-! #### The Action Schedule -/

theorem complete (h : s.queuesSound) (n : Slot) (r : ActionRecord) (t : Timestamp) : (s.complete n r t).queuesSound :=
  h.of_takeIn (actionDone_lostSource n r.counted t) fun m => State.complete_queue s n r t m

theorem requestTarget (h : s.queuesSound) (r : ActionRecord) (q : LevelRequest) : (s.requestTarget r q).queuesSound :=
  h.of_queues_eq (by simp)

theorem fire (h : s.queuesSound) (n : Slot) (r : ActionRecord) (t : Timestamp) : (s.fire n r t).queuesSound := by
  unfold State.fire
  split
  · exact (h.requestTarget r _).complete n r t
  · exact (h.requestTarget r _).complete n r t
  · exact (h.requestTarget r _).complete n r t
  · exact (h.of_queues_eq (by simp)).complete n r t
  · exact h.complete n r t
  · exact (h.requestTarget r .active).of_queues_eq (by simp)

theorem takeFire (h : s.queuesSound) (n : Slot) : (s.takeFire n).queuesSound := by
  unfold State.takeFire
  split
  · split
    · exact h.fire n _ _
    · exact h
  · exact h

theorem takeEnd (h : s.queuesSound) (n : Slot) : (s.takeEnd n).queuesSound := by
  unfold State.takeEnd
  split
  · split
    · next r _ => exact (h.requestTarget r .inactive).complete n _ _
    · exact h
  · exact h

theorem settle (h : s.queuesSound) : s.settle.queuesSound := by
  rw [State.settle_eq_takeAll]
  refine List.foldlRecOn (motive := State.queuesSound) _ _ ?_ fun u hu n _ => hu.takeFire n
  refine List.foldlRecOn (motive := State.queuesSound) _ _ ?_ fun u hu n _ => hu.takeEnd n
  exact List.foldlRecOn (motive := State.queuesSound) _ _ h fun u hu p _ => hu.of_queues_eq (by simp)

/-! #### The Timebase -/

theorem resync (h : s.queuesSound) : s.resync.queuesSound :=
  edgeEvent h.of_queues_eq _ _ _

theorem sampleSync (h : s.queuesSound) (x : Level) : (s.sampleSync x).queuesSound := by
  unfold State.sampleSync
  dsimp only
  split
  · exact resync h.of_queues_eq
  · exact h.of_queues_eq

theorem tickDeadTimes (h : s.queuesSound) : s.tickDeadTimes.queuesSound := h.of_queues_eq

theorem setTimebase (h : s.queuesSound) (t : Timebase) : (s.setTimebase t).queuesSound := h.of_queues_eq

theorem tick (h : s.queuesSound) : s.tick.queuesSound := by
  unfold State.tick
  dsimp only
  split
  · exact ((h.settle.setTimebase _).edgeEvent _ _ _).tickDeadTimes
  · exact (h.settle.setTimebase _).tickDeadTimes

/-! #### Rights -/

theorem writeRights (h : s.queuesSound) (c : RightsSettings) : (s.writeRights c).queuesSound := by
  refine inAnyOrder h.of_queues_eq fun f hf u hu => ?_
  rcases List.mem_append.mp hf with hf | hf
  · obtain ⟨-, hf⟩ := mem_unless.mp hf
    rw [List.mem_singleton.mp hf]
    exact hu.cancelRecords _ _ _
  · split at hf
    · rw [List.mem_singleton.mp hf]; exact hu.rearmCheck _
    · cases hf

end State.queuesSound

/-! ### Every work -/

theorem Work.keeps_queuesSound {s t : State} (w : Work s t) (h : s.queuesSound) : t.queuesSound := by
  cases w
  case nothing => exact h
  case attach m =>
    have hatt : (s.setAttachment m .attached).queuesSound := h.of_queues_eq
    have hempty : NoticeQueue.sound { (s.queue m).emptied with enable := true } := (s.queue m).emptied_sound
    exact (hatt.setQueue m hempty).attachedReactions m _
  case detach m => exact h.detach m
  case suspend m => exact State.queuesSound.attachChange h.of_queues_eq m _ _
  case resume m => exact State.queuesSound.attachedReactions h.of_queues_eq m _
  case rightsWrite c _ => exact h.writeRights c
  case tbHold => exact h.settle.setTimebase _
  case resync => exact h.resync
  case sampleSync x => exact h.sampleSync x
  case tick => exact h.tick
  case servicePeriod => exact h.takeExpiries.of_queues_eq
  case capConfig f n x _ _ => exact h.configureCapture n x
  case sampleCapture n x => exact h.sampleCapture n x
  case entryWrite e c _ => exact h.writeEntry e c
  case entryMask e b => exact h.changeMask e b
  case done m tag => exact h.complyDone m tag
  case expire e => exact h.expire e
  case fetch m n rest hn => exact h.setQueue m (NoticeQueue.afterFetch_sound _ (h m) hn)
  case attnEnable m b => exact h.setQueue m (h m)
  case actCancel n r _ =>
    refine h.of_queues_eq ?_
    unfold State.cancelAction
    split <;> simp
  case actRead => exact h.settle
  case takeFire n => exact h.takeFire n
  case takeEnd n => exact h.takeEnd n
  case cutForce m => exact h.momentary _ _
  case cutRestore m lines _ => exact State.queuesSound.rearmCheck h.of_queues_eq _
  case cutConfig x => exact State.queuesSound.pinChanged h.of_queues_eq _ _
  case sampleCutoff x =>
    unfold State.sampleCutoff
    dsimp only
    split
    · exact State.queuesSound.pinChanged h.of_queues_eq _ _
    · exact h.of_queues_eq
  all_goals exact h.of_queues_eq (by simp [State.countPeriods, State.configureLine])

end Sys2Proof.Machine

open Sys2Proof Sys2Proof.Machine

/-- Settles O51: a queue takes in one notice at a time, each for one of the 25 members of the lost-source set, and a
FETCH frees one place. -/
theorem everyStepKeepsTheQueueBound : Obligations.EveryStepKeepsTheQueueBound := by
  unfold Obligations.EveryStepKeepsTheQueueBound
  intro s t hs hstep
  exact step_keeps (fun s t ha h => h.of_queues_eq ha.queues) State.reset_queuesSound (fun s t w h => w.keeps_queuesSound h) hs hstep

end

section
/-! PROOF. Every step keeps the quotas (R105, R149): no step but ACT_SUBMIT gives a master a record it did not have, and that one is
checked against the quota; RIGHTS_WRITE checks both bounds. -/
namespace Sys2Proof.Machine

/-! ### Counts -/

theorem countOf_le {w : Nat} {f g : Fin w → Bool} (h : ∀ i, f i = true → g i = true) : countOf w f ≤ countOf w g :=
  List.countP_mono_left fun i _ => h i

/-- One more member raises the count by at most 1. -/
theorem countOf_le_succ {w : Nat} {f g : Fin w → Bool} (n : Fin w) (h : ∀ i, i ≠ n → f i = true → g i = true) :
    countOf w f ≤ countOf w g + 1 := by
  have hor : countOf w f ≤ countOf w (fun i => g i || decide (i = n)) := countOf_le fun i hi => by
    by_cases hn : i = n
    · simp [hn]
    · simp [h i hn hi]
  have hadd : countOf w (fun i => g i || decide (i = n)) ≤ countOf w g + countOf w fun i => decide (i = n) := by
    unfold countOf
    generalize List.finRange w = l
    induction l with
    | nil => simp
    | cons i l ih =>
      simp only [List.countP_cons]
      cases g i <;> cases decide (i = n) <;> simp <;> omega
  have hone : countOf w (fun i => decide (i = n)) = 1 := by
    have hcount : (List.finRange w).count n = 1 :=
      List.count_eq_one_of_mem (List.nodup_finRange w) (List.mem_finRange n)
    simpa [countOf, List.count, BEq.beq] using hcount
  omega

/-! ### The records, their owners and targets -/

/-- Every record of t stands in a slot where s holds one of the same owner and target. -/
def State.RecordsWithin (s t : State) : Prop :=
  ∀ n r, t.action n = some r → ∃ x, s.action n = some x ∧ x.owner = r.owner ∧ x.target = r.target

namespace State.RecordsWithin

variable {s t u : State}

theorem refl (s : State) : s.RecordsWithin s := fun _ r h => ⟨r, h, rfl, rfl⟩

theorem trans (h : s.RecordsWithin t) (g : t.RecordsWithin u) : s.RecordsWithin u := fun n r hr => by
  obtain ⟨x, hx, hxr, hxt⟩ := g n r hr
  obtain ⟨y, hy, hyx, hyt⟩ := h n x hx
  exact ⟨y, hy, hyx.trans hxr, hyt.trans hxt⟩

theorem of_actions_eq (e : t.actions = s.actions := by simp) : s.RecordsWithin t := fun n r hr =>
  ⟨r, by simpa only [State.action, e] using hr, rfl, rfl⟩

/-- No master holds more records than before. -/
theorem held_le (h : s.RecordsWithin t) (m : Master) : t.held m ≤ s.held m := by
  refine countOf_le fun n hn => ?_
  split at hn
  · next r hr =>
    obtain ⟨x, hx, hxr, -⟩ := h n r hr
    simpa [hx, hxr] using hn
  · cases hn

/-- One slot's record replaced by another of its owner and target, or removed. -/
theorem setAction (s : State) {n : Slot} {r : ActionRecord} (hr : s.action n = some r) {x : Option ActionRecord}
    (hx : ∀ y, x = some y → y.owner = r.owner ∧ y.target = r.target) : s.RecordsWithin (s.setAction n x) := fun k y hy => by
  rw [State.setAction_action] at hy
  split at hy
  · next hk => exact ⟨r, hk ▸ hr, (hx y hy).1.symm, (hx y hy).2.symm⟩
  · exact ⟨y, hy, rfl, rfl⟩

theorem cancelRecords (s : State) (p : ActionRecord → Bool) (reason : CancelReason) (t : Timestamp) :
    s.RecordsWithin (s.cancelRecords p reason t) := fun n r hr => by
  rw [State.cancelRecords_action] at hr
  split at hr
  · next x hx =>
    split at hr <;> cases hr
    exact ⟨r, hx, rfl, rfl⟩
  · cases hr

theorem dropRecords (s : State) (p : ActionRecord → Bool) : s.RecordsWithin (s.dropRecords p) := fun n r hr => by
  rw [State.dropRecords_action] at hr
  split at hr
  · next x hx =>
    split at hr <;> cases hr
    exact ⟨r, hx, rfl, rfl⟩
  · cases hr

theorem inAnyOrder {s : State} {handOffs : List (State → State)} (h : ∀ f ∈ handOffs, ∀ u : State, u.RecordsWithin (f u)) :
    s.RecordsWithin (s.inAnyOrder handOffs) :=
  State.inAnyOrder_keeps (P := fun u => s.RecordsWithin u) (fun _ => of_actions_eq) fun f hf u hu => hu.trans (h f hf u)

/-! #### Completions -/

theorem rearm_counted (r : ActionRecord) :
    r.counted.rearm.owner = r.owner ∧ r.counted.rearm.target = r.target := by
  unfold ActionRecord.rearm ActionRecord.takeStaged
  dsimp only
  split <;> exact ⟨rfl, rfl⟩

theorem complete (s : State) {n : Slot} {r x : ActionRecord} (hx : s.action n = some x) (ho : x.owner = r.owner)
    (ht : x.target = r.target) (t : Timestamp) : s.RecordsWithin (s.complete n r t) := fun k y hy => by
  rw [State.complete_action] at hy
  split at hy
  · next hk =>
    subst hk
    split at hy <;> cases hy
    exact ⟨x, hx, ho.trans (rearm_counted r).1.symm, ht.trans (rearm_counted r).2.symm⟩
  · exact ⟨y, hy, rfl, rfl⟩

theorem requestTarget_action (s : State) (r : ActionRecord) (q : LevelRequest) (n : Slot) :
    (s.requestTarget r q).action n = s.action n := by
  simp only [State.action, State.requestTarget_actions]

theorem openTarget_action (s : State) (r : ActionRecord) (n : Slot) : (s.openTarget r).action n = s.action n := by
  simp only [State.action, State.openTarget_actions]

theorem fire (s : State) {n : Slot} {r : ActionRecord} (hr : s.action n = some r) (t : Timestamp) :
    s.RecordsWithin (s.fire n r t) := by
  have hreq (q : LevelRequest) : s.RecordsWithin (s.requestTarget r q) := of_actions_eq
  have hat (q : LevelRequest) : (s.requestTarget r q).action n = some r := by rw [requestTarget_action, hr]
  unfold State.fire
  split
  · exact (hreq _).trans (complete _ (hat _) rfl rfl t)
  · exact (hreq _).trans (complete _ (hat _) rfl rfl t)
  · exact (hreq _).trans (complete _ (hat _) rfl rfl t)
  · exact (of_actions_eq (t := s.openTarget r)).trans (complete _ (by rw [openTarget_action, hr]) rfl rfl t)
  · exact complete s hr rfl rfl t
  · exact (hreq .active).trans (setAction _ (hat _) fun y hy => by cases hy; exact ⟨rfl, rfl⟩)

theorem takeFire (s : State) (n : Slot) : s.RecordsWithin (s.takeFire n) := by
  unfold State.takeFire
  split
  · split
    · next r hr => exact fire s hr _
    · exact refl s
  · exact refl s

theorem takeEnd (s : State) (n : Slot) : s.RecordsWithin (s.takeEnd n) := by
  unfold State.takeEnd
  split
  · split
    · next r hr =>
      have hat : (s.requestTarget r .inactive).action n = some r := by rw [requestTarget_action, hr]
      exact (of_actions_eq (t := s.requestTarget r .inactive)).trans
        (complete (r := { r with phase := .armed, nextWidth := r.otherWidth }) _ hat rfl rfl _)
    · exact refl s
  · exact refl s

theorem foldl {β : Type} {f : State → β → State} (l : List β) (h : ∀ u b, State.RecordsWithin u (f u b)) (s : State) :
    s.RecordsWithin (l.foldl f s) :=
  List.foldlRecOn (motive := fun u => s.RecordsWithin u) _ _ (refl s) fun u hu b _ => hu.trans (h u b)

theorem settle (s : State) : s.RecordsWithin s.settle := by
  rw [State.settle_eq_takeAll]
  exact ((foldl _ (fun _ _ => of_actions_eq) s).trans (foldl _ takeEnd _)).trans (foldl _ takeFire _)

/-! #### The Cutoff Unit -/

theorem trip (s : State) (src : CutSource) (t : Timestamp) : s.RecordsWithin (s.trip src t) := by
  refine trans (of_actions_eq (t := s.cutLines.setCutoff _)) (inAnyOrder fun f hf u => ?_)
  rcases List.mem_append.mp hf with hf | hf
  · obtain ⟨-, hf⟩ := mem_unless.mp hf
    rw [List.mem_singleton.mp hf]
    exact cancelRecords u _ _ _
  · rw [List.mem_singleton.mp hf]
    exact of_actions_eq

theorem sourceAsserts (s : State) (src : CutSource) (t : Timestamp) : s.RecordsWithin (s.sourceAsserts src t) := by
  unfold State.sourceAsserts
  split
  · exact trip s src t
  · exact of_actions_eq

theorem momentary (s : State) (src : CutSource) (t : Timestamp) : s.RecordsWithin (s.momentary src t) :=
  (sourceAsserts s src t).trans (of_actions_eq (t := (s.sourceAsserts src t).rearmCheck t))

theorem joinSource (s : State) (src : CutSource) (t : Timestamp) : s.RecordsWithin (s.joinSource src t) :=
  trans (of_actions_eq (t := s.setCutoff _)) (sourceAsserts _ src t)

theorem leaveSource (s : State) (src : CutSource) (t : Timestamp) : s.RecordsWithin (s.leaveSource src t) :=
  of_actions_eq (by simp [State.leaveSource])

theorem pinChanged (s : State) (before : Bool) (t : Timestamp) : s.RecordsWithin (s.pinChanged before t) := by
  unfold State.pinChanged
  split
  · exact joinSource s _ t
  · exact leaveSource s _ t
  · exact refl s
  · exact refl s

/-! #### The Capture Lines and the entries -/

theorem eventHandOffs (s : State) {n : CapLine} {t : Timestamp} {v : CaptureEvent} {f : State → State}
    (hf : f ∈ s.eventHandOffs n t v) (u : State) : u.RecordsWithin (f u) := by
  rcases List.mem_append.mp hf with hf | hf
  · rw [List.mem_singleton.mp hf]
    exact of_actions_eq
  · split at hf
    · rw [List.mem_singleton.mp hf]
      cases v
      · exact momentary u _ t
      · exact joinSource u _ t
      · exact leaveSource u _ t
    · cases hf

theorem groupHandOffs (s : State) {n : CapLine} {t : Timestamp} {f : State → State} (hf : f ∈ s.groupHandOffs n t)
    (u : State) : u.RecordsWithin (f u) :=
  of_actions_eq (s.groupHandOffs_actions hf u)

theorem sampleCapture (s : State) (n : CapLine) (x : Level) : s.RecordsWithin (s.sampleCapture n x) := by
  unfold State.sampleCapture
  dsimp only
  split
  · unfold State.qualifiedChange
    split
    · exact trans of_actions_eq (inAnyOrder fun f hf u => groupHandOffs _ hf u)
    · refine trans of_actions_eq (inAnyOrder fun f hf u => ?_)
      rcases List.mem_append.mp hf with hf | hf
      · exact groupHandOffs _ hf u
      · exact eventHandOffs _ hf u
  · split
    · exact of_actions_eq
    · exact of_actions_eq

theorem gateHandOff (s : State) {n : CapLine} {x : CaptureSettings} {f : State → State} (hf : f ∈ s.gateHandOff n x)
    (u : State) : u.RecordsWithin (f u) := by
  unfold State.gateHandOff at hf
  split at hf
  · cases hf
  · obtain ⟨-, hf⟩ := mem_unless.mp hf
    rw [List.mem_singleton.mp hf]
    exact cancelRecords u _ _ _

theorem configureCapture (s : State) (n : CapLine) (x : CaptureSettings) : s.RecordsWithin (s.configureCapture n x) := by
  unfold State.configureCapture
  dsimp only
  split
  · exact trans of_actions_eq (inAnyOrder fun f hf u => gateHandOff s hf u)
  · refine trans of_actions_eq (inAnyOrder fun f hf u => ?_)
    rcases List.mem_append.mp hf with hf | hf
    · exact gateHandOff s hf u
    · exact eventHandOffs s hf u

theorem flagHandOff (s : State) {e : EntryIx} {c : EntrySettings} {f : State → State} (hf : f ∈ s.flagHandOff e c)
    (u : State) : u.RecordsWithin (f u) := by
  unfold State.flagHandOff at hf
  split at hf
  · cases hf
  · split at hf
    · split at hf
      · rw [List.mem_singleton.mp hf]; exact joinSource u _ _
      · rw [List.mem_singleton.mp hf]; exact leaveSource u _ _
      · cases hf
      · cases hf
    · cases hf

theorem writeEntry (s : State) (e : EntryIx) (c : EntrySettings) : s.RecordsWithin (s.writeEntry e c) := by
  refine trans of_actions_eq (inAnyOrder fun f hf u => ?_)
  rcases List.mem_append.mp hf with hf | hf
  · unfold State.writeAttempt at hf
    split at hf
    · rw [List.mem_singleton.mp hf]; exact of_actions_eq
    · cases hf
  · exact flagHandOff s hf u

theorem complyDone (s : State) (m : Master) (tag : Byte) : s.RecordsWithin (s.complyDone m tag) := by
  refine inAnyOrder fun f hf u => ?_
  obtain ⟨e, -, rfl⟩ := List.mem_map.mp hf
  exact of_actions_eq

/-! #### Attachment and rights -/

theorem detach (s : State) (m : Master) : s.RecordsWithin ((s.tearDown m).inAnyOrder (s.detachHandOffs m)) := by
  have hdown : s.RecordsWithin (s.tearDown m) :=
    trans (dropRecords s (ActionRecord.ownedBy m)) (of_actions_eq (by simp [State.tearDown, State.dropRecords, State.action]))
  refine hdown.trans (inAnyOrder fun f hf u => ?_)
  rcases List.mem_append.mp hf with hf | hf
  · rcases List.mem_append.mp hf with hf | hf
    · obtain ⟨e, -, rfl⟩ := List.mem_map.mp hf
      exact of_actions_eq
    · split at hf
      · rw [List.mem_singleton.mp hf]; exact of_actions_eq
      · cases hf
  · rw [List.mem_singleton.mp hf]
    exact of_actions_eq

theorem writeRights (s : State) (c : RightsSettings) : s.RecordsWithin (s.writeRights c) := by
  refine trans (of_actions_eq (t := (s.setRight _ _).releaseLines _)) (inAnyOrder fun f hf u => ?_)
  rcases List.mem_append.mp hf with hf | hf
  · obtain ⟨-, hf⟩ := mem_unless.mp hf
    rw [List.mem_singleton.mp hf]
    exact cancelRecords u _ _ _
  · split at hf
    · rw [List.mem_singleton.mp hf]; exact of_actions_eq
    · cases hf

theorem rebase (s : State) (a b : Count) : s.RecordsWithin (s.rebase a b) := fun n r hr => by
  rw [State.rebase_action] at hr
  obtain ⟨x, hx, rfl⟩ := Option.map_eq_some_iff.mp hr
  exact ⟨x, hx, rfl, rfl⟩

theorem resync (s : State) : s.RecordsWithin s.resync :=
  trans (rebase (s.setTimebase s.timebase.reload) _ _) (of_actions_eq (State.edgeEvent_actions _ _ _ _))

end State.RecordsWithin

/-! ### Every work -/

namespace State.quotasSound

variable {s t : State}

/-- With no record more in any master's hands and the quotas as they were, both bounds stand. -/
theorem of_records (h : s.quotasSound) (hw : s.RecordsWithin t) (hr : t.rights = s.rights := by simp) :
    t.quotasSound := by
  have hright (m : Master) : t.right m = s.right m := by simp only [State.right, hr]
  refine ⟨fun m => ?_, ?_⟩
  · rw [hright]
    exact (hw.held_le m).trans (h.1 m)
  · simpa only [State.quotaSum, hright] using h.2

/-- R149, checks 3 and 4: a write that passes them keeps both bounds. -/
theorem writeRights (h : s.quotasSound) {c : RightsSettings} (passed : s.rightsRefusal c = none) :
    (s.writeRights c).quotasSound := by
  obtain ⟨hheld, hsum⟩ := h
  unfold State.rightsRefusal at passed
  split_ifs at passed with hin hfull
  have hquota (m : Master) :
      ((s.writeRights c).right m).quota = if m = c.master then c.rights.quota else (s.right m).quota := by
    have hfield : (s.writeRights c).rights = (s.setRight c.master c.rights).rights := by
      refine State.inAnyOrder_field State.rights (fun _ => by simp) fun f hf u => ?_
      rcases List.mem_append.mp hf with hf | hf
      · obtain ⟨-, hf⟩ := mem_unless.mp hf
        rw [List.mem_singleton.mp hf]
        simp
      · split at hf
        · rw [List.mem_singleton.mp hf]; simp
        · cases hf
    have hright : (s.writeRights c).right m = (s.setRight c.master c.rights).right m := by
      simp only [State.right, hfield]
    rw [hright, State.setRight_right]
    split <;> rfl
  refine ⟨fun m => ?_, ?_⟩
  · refine ((State.RecordsWithin.writeRights s c).held_le m).trans ?_
    rw [hquota]
    split
    · next hm => rw [hm]; omega
    · exact hheld m
  · have key : ∀ (m : Master) (q a b d e : Nat),
        (if m = 0 then a else if m = 1 then b else if m = 2 then d else e) ≤ a + b + d + e ∧
        ((if 0 = m then q else a) + (if 1 = m then q else b) + (if 2 = m then q else d) + (if 3 = m then q else e) =
          a + b + d + e - (if m = 0 then a else if m = 1 then b else if m = 2 then d else e) + q) := by
      intro m q a b d e
      match m with
      | 0 | 1 | 2 | 3 => simp <;> omega
    have hown : (s.right c.master).quota =
        if c.master = 0 then (s.right 0).quota else if c.master = 1 then (s.right 1).quota
        else if c.master = 2 then (s.right 2).quota else (s.right 3).quota := by
      generalize c.master = m
      match m with
      | 0 | 1 | 2 | 3 => rfl
    simp only [State.quotaSum, hquota, (key c.master _ _ _ _ _).2, ← hown]
    simpa [State.quotaSum] using hfull

theorem submit (h : s.quotasSound) {n : Slot} {r : ActionRecord} (below : s.held r.owner < (s.right r.owner).quota) :
    (s.setAction n (some r)).quotasSound := by
  refine ⟨fun m => ?_, h.2⟩
  by_cases hm : m = r.owner
  · subst hm
    refine (countOf_le_succ n fun i hi hf => ?_).trans below
    simpa [hi] using hf
  · refine (countOf_le fun i hf => ?_).trans (h.1 m)
    by_cases hi : i = n
    · simp [hi, Ne.symm hm] at hf
    · simpa [hi] using hf

end State.quotasSound

theorem Work.keeps_quotasSound {s t : State} (w : Work s t) (h : s.quotasSound) : t.quotasSound := by
  cases w
  case nothing => exact h
  case detach m =>
    refine h.of_records (.detach s m) (State.inAnyOrder_field State.rights (fun _ => by simp) fun f hf u => ?_)
    rcases List.mem_append.mp hf with hf | hf
    · rcases List.mem_append.mp hf with hf | hf
      · obtain ⟨e, -, rfl⟩ := List.mem_map.mp hf
        simp
      · split at hf
        · rw [List.mem_singleton.mp hf]; simp
        · cases hf
    · rw [List.mem_singleton.mp hf]; simp
  case rightsWrite c passed => exact h.writeRights passed
  case tbHold => exact h.of_records (.trans (.settle s) .of_actions_eq)
  case resync => exact h.of_records (.resync s) (by simp [State.resync])
  case sampleSync x =>
    have hset : s.RecordsWithin { s.setTimebase { s.timebase with syncSample := x } with syncPin := x } := .of_actions_eq
    refine h.of_records ?_
    unfold State.sampleSync
    dsimp only
    split
    · exact hset.trans (.resync _)
    · exact hset
  case tick =>
    refine h.of_records ((State.RecordsWithin.settle s).trans ?_) ?_
    · unfold State.tick
      dsimp only
      split <;> exact .of_actions_eq (by simp [State.tickDeadTimes])
    · unfold State.tick
      dsimp only
      split <;> simp [State.tickDeadTimes]
  case capConfig f n x _ _ => exact h.of_records (.configureCapture s n x)
  case sampleCapture n x => exact h.of_records (.sampleCapture s n x)
  case entryWrite e c _ => exact h.of_records (.writeEntry s e c)
  case done m tag =>
    refine h.of_records (.complyDone s m tag) (State.inAnyOrder_field State.rights (fun _ => rfl) fun f hf u => ?_)
    obtain ⟨e, -, rfl⟩ := List.mem_map.mp hf
    simp
  case actSubmit n r _ below _ => exact h.submit below
  case actModify n r u hr => exact h.of_records (.setAction s hr fun y hy => by cases hy; exact ⟨rfl, rfl⟩)
  case actCancel n r hr =>
    unfold State.cancelAction
    split
    · exact h.of_records (.trans (.of_actions_eq (t := s.requestTarget r .inactive))
        (.setAction _ (by rw [State.RecordsWithin.requestTarget_action, hr]) fun y hy => by cases hy))
    · exact h.of_records (.setAction s hr fun y hy => by cases hy)
  case actRead => exact h.of_records (.settle s)
  case takeFire n => exact h.of_records (.takeFire s n)
  case takeEnd n => exact h.of_records (.takeEnd s n)
  case cutForce m => exact h.of_records (.momentary s _ _)
  case cutConfig x => exact h.of_records (.trans (.of_actions_eq (t := s.setCutoff _)) (.pinChanged _ _ _))
  case sampleCutoff x =>
    have hset (f : Filter) : s.RecordsWithin { s.setCutoff { s.cutoff with filter := f } with cutoffPin := x } :=
      .of_actions_eq
    refine h.of_records ?_
    unfold State.sampleCutoff
    dsimp only
    split
    · exact (hset _).trans (.pinChanged _ _ _)
    · exact hset _
  all_goals
    refine h.of_records (.of_actions_eq ?_) ?_
    all_goals simp [State.countPeriods, State.configureLine, State.restoreLines]

end Sys2Proof.Machine

open Sys2Proof Sys2Proof.Machine

/-- Settles O53: by the records, slot by slot; ACT_SUBMIT and RIGHTS_WRITE by their checks. -/
theorem everyStepKeepsTheQuotas : Obligations.EveryStepKeepsTheQuotas := by
  unfold Obligations.EveryStepKeepsTheQuotas
  intro s t hs hstep
  exact step_keeps (fun s t ha h => h.of_records (.of_actions_eq ha.actions) ha.rights) State.reset_quotasSound
    (fun s t w h => w.keeps_quotasSound h) hs hstep

end

section
/-! PROOF. Invariants of the output lines, their pairs and the Cutoff Unit: what has to be shown of one, and that every work then
keeps it. -/
namespace Sys2Proof.Machine

/-- The lines and pairs of t are those of s, its Cutoff Unit has the same state and trip record, and it has no record more. -/
structure State.OutputsStand (s t : State) : Prop where
  lines : t.lines = s.lines
  pairs : t.pairs = s.pairs
  state : t.cutoff.state = s.cutoff.state
  trip : t.cutoff.trip = s.cutoff.trip
  records : s.RecordsWithin t

namespace State.OutputsStand

variable {s t : State}

/-- Nothing of the outputs, of the Cutoff Unit and of the records changes. -/
theorem of_eq (lines : t.lines = s.lines := by simp) (pairs : t.pairs = s.pairs := by simp)
    (cutoff : t.cutoff = s.cutoff := by simp) (actions : t.actions = s.actions := by simp) : s.OutputsStand t :=
  ⟨lines, pairs, by rw [cutoff], by rw [cutoff], .of_actions_eq actions⟩

theorem trans {u : State} (h : s.OutputsStand t) (g : t.OutputsStand u) : s.OutputsStand u :=
  ⟨g.lines.trans h.lines, g.pairs.trans h.pairs, g.state.trans h.state, g.trip.trans h.trip, h.records.trans g.records⟩

theorem line (h : s.OutputsStand t) (l : OutLine) : t.line l = s.line l := by simp only [State.line, h.lines]
theorem pair (h : s.OutputsStand t) (p : PairIx) : t.pair p = s.pair p := by simp only [State.pair, h.pairs]
theorem complement (h : s.OutputsStand t) (p : PairIx) : t.complement p = s.complement p := by
  simp only [State.complement, h.pair]

end State.OutputsStand

/-- A re-arm is a change of the Cutoff Unit alone, and a delivery. -/
theorem State.rearmCheck_keeps {P : State → Prop} (stand : ∀ s t, s.OutputsStand t → P s → P t)
    (rearm : ∀ s, s.mayRearm = true → P s → P (s.setCutoff { s.cutoff with state := .armed, trip := none })) (s : State)
    (t : Timestamp) (hs : P s) : P (s.rearmCheck t) := by
  unfold State.rearmCheck
  split
  · next hm => exact stand _ _ .of_eq (rearm s hm hs)
  · exact hs

/-- A trip is the change of the lines and of the Cutoff Unit, then removals and a delivery. -/
theorem State.trip_stand (s : State) (src : CutSource) (t : Timestamp) :
    (s.cutLines.setCutoff { s.cutoff with state := .tripped, trip := some ⟨src, t, single src.bit⟩ }).OutputsStand
      (s.trip src t) := by
  refine State.inAnyOrder_keeps (P := fun u => State.OutputsStand _ u)
    (fun _ => ⟨rfl, rfl, rfl, rfl, .of_actions_eq rfl⟩) fun f hf u hu => ?_
  rcases List.mem_append.mp hf with hf | hf
  · obtain ⟨-, hf⟩ := mem_unless.mp hf
    rw [List.mem_singleton.mp hf]
    exact hu.trans ⟨by simp, by simp, by simp, by simp, .cancelRecords u _ _ _⟩
  · rw [List.mem_singleton.mp hf]
    exact hu.trans .of_eq

/-- RIGHTS_WRITE is the release of the withdrawn lines, then removals and a re-arm check, which together keep what each keeps. -/
theorem State.writeRights_keeps {P : State → Prop} (stand : ∀ s t, s.OutputsStand t → P s → P t)
    (rearm : ∀ s, s.mayRearm = true → P s → P (s.setCutoff { s.cutoff with state := .armed, trip := none })) (s : State)
    (c : RightsSettings) (hs : P ((s.setRight c.master c.rights).releaseLines (s.withdrawnLines c))) : P (s.writeRights c) := by
  refine State.inAnyOrder_keeps (fun _ => ?_) fun f hf u hu => ?_
  · exact stand ((s.setRight c.master c.rights).releaseLines (s.withdrawnLines c)) _
      ⟨rfl, rfl, rfl, rfl, .of_actions_eq rfl⟩ hs
  rcases List.mem_append.mp hf with hf | hf
  · obtain ⟨-, hf⟩ := mem_unless.mp hf
    rw [List.mem_singleton.mp hf]
    exact stand u _ ⟨by simp, by simp, by simp, by simp, .cancelRecords u _ _ _⟩ hu
  · split at hf
    · rw [List.mem_singleton.mp hf]
      exact State.rearmCheck_keeps stand rearm u _ hu
    · cases hf

/-- What shows a predicate to be an invariant: it stands with the outputs, holds after reset, and is kept by each operation that
changes a line, a pair, the state of the Cutoff Unit or, but for a removal, the records. -/
structure OutputInvariant (P : State → Prop) : Prop where
  reset : P State.reset
  stand : ∀ s t, s.OutputsStand t → P s → P t
  requestTarget : ∀ s r q, P s → P (s.requestTarget r q)
  expireDeadTime : ∀ s p, P s → P (s.expireDeadTime p)
  tickDeadTimes : ∀ s, P s → P s.tickDeadTimes
  trip : ∀ s src t, s.cutoff.state = .armed → P s → P (s.trip src t)
  see : ∀ s src, s.cutoff.state = .tripped → P s → P (s.setCutoff (s.cutoff.see src))
  rearm : ∀ s, s.mayRearm = true → P s → P (s.setCutoff { s.cutoff with state := .armed, trip := none })
  submit : ∀ s n r, s.targetRefusal r.owner r.target = none → P s → P (s.setAction n (some r))
  claim : ∀ s m l, (s.line l).drive = .float → P s → P (s.changeLines (s.together l) (OutputLine.claimed m))
  release : ∀ s l, (s.line l).drive ≠ .driven → P s → P (s.changeLines (s.together l) OutputLine.released)
  configureLine : ∀ s l c, (s.line l).drive = .disabled → (s.complementB l = true → c.cutEnable = s.pairCutEnable l) → P s →
    P (s.configureLine l c)
  enable : ∀ s l, s.complementB l = false → (s.line l).drive = .disabled →
    ((s.line l).cutEnable = true → s.cutoff.state ≠ .tripped) → P s → P (s.enableLine l)
  disable : ∀ s l, s.complementB l = false → (s.line l).drive = .driven → s.lineInUse l = false → P s → P (s.disableLine l)
  configurePair : ∀ s m p mode d, s.pairRefusal m p mode = none → P s →
    P (s.setPair p { s.pair p with mode := mode, deadTime := d })
  restore : ∀ s m lines, s.restoreRefusal m lines = none → P s →
    P (s.changeLines (fun l => (s.wholePairs lines).getLsbD l.val) OutputLine.stopped)
  tearDown : ∀ s m, P s → P (s.tearDown m)
  writeRights : ∀ s c, P s → P (s.writeRights c)

namespace OutputInvariant

variable {P : State → Prop}

/-- Hand-offs, each of which keeps the invariant. -/
theorem inAnyOrder (h : OutputInvariant P) {s : State} {handOffs : List (State → State)} (hs : P s)
    (keeps : ∀ f ∈ handOffs, ∀ u, P u → P (f u)) : P (s.inAnyOrder handOffs) :=
  State.inAnyOrder_keeps (fun _ => h.stand s _ .of_eq hs) keeps

theorem cancelRecords (h : OutputInvariant P) {s : State} (p : ActionRecord → Bool) (reason : CancelReason) (t : Timestamp)
    (hs : P s) : P (s.cancelRecords p reason t) :=
  h.stand s _ ⟨by simp, by simp, by simp, by simp, .cancelRecords s p reason t⟩ hs

/-! ### The Cutoff Unit -/

theorem sourceAsserts (h : OutputInvariant P) {s : State} (src : CutSource) (t : Timestamp) (hs : P s) :
    P (s.sourceAsserts src t) := by
  unfold State.sourceAsserts
  split
  · next ha => exact h.trip s src t ha hs
  · next ht => exact h.see s src ht hs

theorem rearmCheck (h : OutputInvariant P) {s : State} (t : Timestamp) (hs : P s) : P (s.rearmCheck t) :=
  State.rearmCheck_keeps h.stand h.rearm s t hs

/-- A change of the Cutoff Unit that leaves its state and its trip record. -/
theorem setCutoff (h : OutputInvariant P) {s : State} {c : Cutoff} (state : c.state = s.cutoff.state)
    (trip : c.trip = s.cutoff.trip) (hs : P s) : P (s.setCutoff c) :=
  h.stand s _ ⟨rfl, rfl, state, trip, .of_actions_eq⟩ hs

theorem momentary (h : OutputInvariant P) {s : State} (src : CutSource) (t : Timestamp) (hs : P s) :
    P (s.momentary src t) :=
  h.rearmCheck t (h.sourceAsserts src t hs)

theorem joinSource (h : OutputInvariant P) {s : State} (src : CutSource) (t : Timestamp) (hs : P s) :
    P (s.joinSource src t) :=
  h.sourceAsserts src t (h.setCutoff rfl rfl hs)

theorem leaveSource (h : OutputInvariant P) {s : State} (src : CutSource) (t : Timestamp) (hs : P s) :
    P (s.leaveSource src t) :=
  h.rearmCheck t (h.setCutoff rfl rfl hs)

theorem pinChanged (h : OutputInvariant P) {s : State} (before : Bool) (t : Timestamp) (hs : P s) :
    P (s.pinChanged before t) := by
  unfold State.pinChanged
  split
  · exact h.joinSource _ t hs
  · exact h.leaveSource _ t hs
  · exact hs
  · exact hs

/-! ### The Capture Lines and the entries -/

theorem eventHandOffs (h : OutputInvariant P) (s : State) {n : CapLine} {t : Timestamp} {v : CaptureEvent}
    {f : State → State} (hf : f ∈ s.eventHandOffs n t v) {u : State} (hu : P u) : P (f u) := by
  rcases List.mem_append.mp hf with hf | hf
  · rw [List.mem_singleton.mp hf]
    exact h.stand u _ .of_eq hu
  · split at hf
    · rw [List.mem_singleton.mp hf]
      cases v
      · exact h.momentary _ t hu
      · exact h.joinSource _ t hu
      · exact h.leaveSource _ t hu
    · cases hf

theorem groupHandOffs (h : OutputInvariant P) (s : State) {n : CapLine} {t : Timestamp} {f : State → State}
    (hf : f ∈ s.groupHandOffs n t) {u : State} (hu : P u) : P (f u) := by
  obtain ⟨g, -, rfl⟩ := List.mem_map.mp hf
  exact h.stand u _ .of_eq hu

theorem setCapture (h : OutputInvariant P) {s : State} (n : CapLine) (c : CaptureLine) (hs : P s) : P (s.setCapture n c) :=
  h.stand s _ .of_eq hs

theorem qualifiedChange (h : OutputInvariant P) {s : State} (n : CapLine) (t : Timestamp) (hs : P s) :
    P (s.qualifiedChange n t) := by
  unfold State.qualifiedChange
  split
  · exact h.inAnyOrder (h.setCapture n _ hs) fun f hf u hu => h.groupHandOffs s hf hu
  · refine h.inAnyOrder (h.setCapture n _ hs) fun f hf u hu => ?_
    rcases List.mem_append.mp hf with hf | hf
    · exact h.groupHandOffs s hf hu
    · exact h.eventHandOffs s hf hu

theorem sampleCapture (h : OutputInvariant P) {s : State} (n : CapLine) (x : Level) (hs : P s) :
    P (s.sampleCapture n x) := by
  unfold State.sampleCapture
  dsimp only
  split
  · exact h.qualifiedChange n _ (h.stand s _ .of_eq hs)
  · split
    · exact h.stand s _ .of_eq hs
    · exact h.stand s _ .of_eq hs

theorem gateHandOff (h : OutputInvariant P) (s : State) {n : CapLine} {x : CaptureSettings} {f : State → State}
    (hf : f ∈ s.gateHandOff n x) {u : State} (hu : P u) : P (f u) := by
  unfold State.gateHandOff at hf
  split at hf
  · cases hf
  · obtain ⟨-, hf⟩ := mem_unless.mp hf
    rw [List.mem_singleton.mp hf]
    exact h.cancelRecords _ _ _ hu

theorem configureCapture (h : OutputInvariant P) {s : State} (n : CapLine) (x : CaptureSettings) (hs : P s) :
    P (s.configureCapture n x) := by
  unfold State.configureCapture
  dsimp only
  split
  · exact h.inAnyOrder (h.setCapture n _ hs) fun f hf u hu => h.gateHandOff s hf hu
  · refine h.inAnyOrder (h.setCapture n _ hs) fun f hf u hu => ?_
    rcases List.mem_append.mp hf with hf | hf
    · exact h.gateHandOff s hf hu
    · exact h.eventHandOffs s hf hu

theorem flagHandOff (h : OutputInvariant P) (s : State) {e : EntryIx} {c : EntrySettings} {f : State → State}
    (hf : f ∈ s.flagHandOff e c) {u : State} (hu : P u) : P (f u) := by
  unfold State.flagHandOff at hf
  split at hf
  · cases hf
  · split at hf
    · split at hf
      · rw [List.mem_singleton.mp hf]; exact h.joinSource _ _ hu
      · rw [List.mem_singleton.mp hf]; exact h.leaveSource _ _ hu
      · cases hf
      · cases hf
    · cases hf

theorem writeEntry (h : OutputInvariant P) {s : State} (e : EntryIx) (c : EntrySettings) (hs : P s) :
    P (s.writeEntry e c) := by
  refine h.inAnyOrder (h.stand s _ .of_eq hs) fun f hf u hu => ?_
  rcases List.mem_append.mp hf with hf | hf
  · unfold State.writeAttempt at hf
    split at hf
    · rw [List.mem_singleton.mp hf]; exact h.stand u _ .of_eq hu
    · cases hf
  · exact h.flagHandOff s hf hu

theorem complyDone (h : OutputInvariant P) {s : State} (m : Master) (tag : Byte) (hs : P s) : P (s.complyDone m tag) := by
  refine h.inAnyOrder hs fun f hf u hu => ?_
  obtain ⟨e, -, rfl⟩ := List.mem_map.mp hf
  exact h.stand u _ .of_eq hu

/-! ### Attachment -/

theorem detach (h : OutputInvariant P) {s : State} (m : Master) (hs : P s) :
    P ((s.tearDown m).inAnyOrder (s.detachHandOffs m)) := by
  refine h.inAnyOrder (h.tearDown s m hs) fun f hf u hu => ?_
  rcases List.mem_append.mp hf with hf | hf
  · rcases List.mem_append.mp hf with hf | hf
    · obtain ⟨e, -, rfl⟩ := List.mem_map.mp hf
      exact h.stand u _ .of_eq hu
    · split at hf
      · rw [List.mem_singleton.mp hf]; exact h.rearmCheck _ hu
      · cases hf
  · rw [List.mem_singleton.mp hf]
    exact h.stand u _ .of_eq hu

/-! ### The Action Schedule -/

theorem complete (h : OutputInvariant P) {s : State} {n : Slot} {r x : ActionRecord} (hx : s.action n = some x)
    (ho : x.owner = r.owner) (ht : x.target = r.target) (t : Timestamp) (hs : P s) : P (s.complete n r t) :=
  h.stand s _ ⟨by simp, by simp, by simp, by simp, .complete s hx ho ht t⟩ hs

theorem replaceRecord (h : OutputInvariant P) {s : State} {n : Slot} {r : ActionRecord} (hr : s.action n = some r)
    {x : Option ActionRecord} (hx : ∀ y, x = some y → y.owner = r.owner ∧ y.target = r.target) (hs : P s) :
    P (s.setAction n x) :=
  h.stand s _ ⟨rfl, rfl, rfl, rfl, .setAction s hr hx⟩ hs

theorem fire (h : OutputInvariant P) {s : State} {n : Slot} {r : ActionRecord} (hr : s.action n = some r) (t : Timestamp)
    (hs : P s) : P (s.fire n r t) := by
  have hat (q : LevelRequest) : (s.requestTarget r q).action n = some r := by
    rw [State.RecordsWithin.requestTarget_action, hr]
  unfold State.fire
  split
  · exact h.complete (hat _) rfl rfl t (h.requestTarget s r _ hs)
  · exact h.complete (hat _) rfl rfl t (h.requestTarget s r _ hs)
  · exact h.complete (hat _) rfl rfl t (h.requestTarget s r _ hs)
  · refine h.complete (x := r) ?_ rfl rfl t (h.stand s _ .of_eq hs)
    rw [State.RecordsWithin.openTarget_action, hr]
  · exact h.complete hr rfl rfl t hs
  · exact h.replaceRecord (hat _) (fun y hy => by cases hy; exact ⟨rfl, rfl⟩) (h.requestTarget s r _ hs)

theorem takeFire (h : OutputInvariant P) {s : State} (n : Slot) (hs : P s) : P (s.takeFire n) := by
  unfold State.takeFire
  split
  · split
    · next r hr => exact h.fire hr _ hs
    · exact hs
  · exact hs

theorem takeEnd (h : OutputInvariant P) {s : State} (n : Slot) (hs : P s) : P (s.takeEnd n) := by
  unfold State.takeEnd
  split
  · split
    · next r hr =>
      refine h.complete (r := { r with phase := .armed, nextWidth := r.otherWidth }) (x := r) ?_ rfl rfl _
        (h.requestTarget s r .inactive hs)
      rw [State.RecordsWithin.requestTarget_action, hr]
    · exact hs
  · exact hs

theorem settle (h : OutputInvariant P) {s : State} (hs : P s) : P s.settle := by
  rw [State.settle_eq_takeAll]
  refine List.foldlRecOn (motive := P) _ _ ?_ fun u hu n _ => h.takeFire n hu
  refine List.foldlRecOn (motive := P) _ _ ?_ fun u hu n _ => h.takeEnd n hu
  exact List.foldlRecOn (motive := P) _ _ hs fun u hu p _ => h.expireDeadTime u p hu

theorem cancelAction (h : OutputInvariant P) {s : State} {n : Slot} {r : ActionRecord} (hr : s.action n = some r)
    (hs : P s) : P (s.cancelAction n r) := by
  unfold State.cancelAction
  split
  · refine h.replaceRecord (r := r) ?_ (fun y hy => by cases hy) (h.requestTarget s r _ hs)
    rw [State.RecordsWithin.requestTarget_action, hr]
  · exact h.replaceRecord hr (fun y hy => by cases hy) hs

/-! ### The Timebase -/

theorem resync (h : OutputInvariant P) {s : State} (hs : P s) : P s.resync :=
  h.stand s _ ⟨by simp, by simp, by simp, by simp, .resync s⟩ hs

theorem sampleSync (h : OutputInvariant P) {s : State} (x : Level) (hs : P s) : P (s.sampleSync x) := by
  unfold State.sampleSync
  dsimp only
  split
  · exact h.resync (h.stand s _ .of_eq hs)
  · exact h.stand s _ .of_eq hs

theorem tick (h : OutputInvariant P) {s : State} (hs : P s) : P s.tick := by
  have hset (t : Timebase) : P (s.settle.setTimebase t) := h.stand _ _ .of_eq (h.settle hs)
  unfold State.tick
  dsimp only
  split
  · exact h.tickDeadTimes _ (h.stand _ _ .of_eq (hset s.settle.timebase.advance))
  · exact h.tickDeadTimes _ (hset _)

/-! ### Every work -/

theorem work (h : OutputInvariant P) {s t : State} (w : Work s t) (hs : P s) : P t := by
  cases w
  case nothing => exact hs
  case detach m => exact h.detach m hs
  case rightsWrite c _ => exact h.writeRights s c hs
  case tbHold => exact h.stand _ _ .of_eq (h.settle hs)
  case resync => exact h.resync hs
  case sampleSync x => exact h.sampleSync x hs
  case tick => exact h.tick hs
  case period => exact h.stand s _ ⟨rfl, rfl, rfl, rfl, .of_actions_eq rfl⟩ hs
  case capConfig f n x _ _ => exact h.configureCapture n x hs
  case sampleCapture n x => exact h.sampleCapture n x hs
  case entryWrite e c _ => exact h.writeEntry e c hs
  case done m tag => exact h.complyDone m tag hs
  case actSubmit n r targeted _ _ => exact h.submit s n r targeted hs
  case actModify n r u hr => exact h.replaceRecord hr (fun y hy => by cases hy; exact ⟨rfl, rfl⟩) hs
  case actCancel n r hr => exact h.cancelAction hr hs
  case actRead => exact h.settle hs
  case takeFire n => exact h.takeFire n hs
  case takeEnd n => exact h.takeEnd n hs
  case expireDeadTime p => exact h.expireDeadTime s p hs
  case lineClaim m l free => exact h.claim s m l free hs
  case lineRelease l driven _ => exact h.release s l driven hs
  case lineConfig l c disabled agrees => exact h.configureLine s l c disabled agrees hs
  case lineEnable l first disabled safe => exact h.enable s l first disabled safe hs
  case lineDisable l first driven unused => exact h.disable s l first driven unused hs
  case pairConfig m p mode d passed => exact h.configurePair s m p mode d passed hs
  case cutForce m => exact h.momentary _ _ hs
  case cutRestore m lines passed => exact h.rearmCheck _ (h.restore s m lines passed hs)
  case cutConfig x => exact h.pinChanged _ _ (h.setCutoff rfl rfl hs)
  case sampleCutoff x =>
    have hset (f : Filter) : P { s.setCutoff { s.cutoff with filter := f } with cutoffPin := x } :=
      h.stand s _ ⟨rfl, rfl, rfl, rfl, .of_actions_eq rfl⟩ hs
    unfold State.sampleCutoff
    dsimp only
    split
    · exact h.pinChanged _ _ (hset _)
    · exact hset _
  all_goals exact h.stand s _ .of_eq hs

theorem step (h : OutputInvariant P) {s t : State} (hs : P s) (hstep : step s = .next t) : P t :=
  step_keeps (fun s t ha => h.stand s t ⟨ha.lines, ha.pairs, by rw [ha.cutoff], by rw [ha.cutoff], .of_actions_eq ha.actions⟩) h.reset
    (fun _ _ w => h.work w) hs hstep

end OutputInvariant
end Sys2Proof.Machine
end

section
/-! PROOF. Every step keeps the lines, their pairs' two lines and the Cutoff Unit in agreement (R115, R123, R137, R141). -/
namespace Sys2Proof.Machine

/-! ### One line, and two lines of a pair -/

/-- R114, R115: an owner unless FLOAT, active only while DRIVEN. -/
def OutputLine.sound (x : OutputLine) : Prop := (x.owner = none ↔ x.drive = .float) ∧ (x.drive ≠ .driven → x.active = false)

/-- R123: what the two lines of a COMPLEMENT pair have in common. -/
def OutputLine.Alike (x y : OutputLine) : Prop := x.owner = y.owner ∧ x.drive = y.drive ∧ x.cutEnable = y.cutEnable

theorem State.linesSound_iff {s : State} :
    s.linesSound ↔
      (∀ l, (s.line l).sound) ∧ ∀ p, s.complement p = true → (s.line (lineA p)).Alike (s.line (lineB p)) :=
  Iff.rfl

/-! ### The line at which a change of a line is decided (R123) -/

theorem State.lead_lineA (s : State) (p : PairIx) : s.lead (lineA p) = lineA p := by
  unfold State.lead
  split <;> simp

theorem State.lead_lineB {s : State} {p : PairIx} (h : s.complement p = true) : s.lead (lineB p) = lineA p := by
  unfold State.lead
  simp [h]

theorem State.lead_independent {s : State} {l : OutLine} (h : s.complement (pairOf l) = false) : s.lead l = l := by
  unfold State.lead
  simp [h]

/-- The lines of a sound state agree with the line they are decided at. -/
theorem State.linesSound.alike_lead {s : State} (h : s.linesSound) (l : OutLine) : (s.line (s.lead l)).Alike (s.line l) := by
  cases hc : s.complement (pairOf l)
  · rw [State.lead_independent hc]
    exact ⟨rfl, rfl, rfl⟩
  · rcases line_of_pair l with hl | hl
    · rw [hl, State.lead_lineA]
      exact ⟨rfl, rfl, rfl⟩
    · rw [hl, State.lead_lineB hc]
      exact h.2 _ hc

/-- Lines that act together, in a sound state, are alike. -/
theorem State.linesSound.alike_together {s : State} (h : s.linesSound) {l k : OutLine} (ht : s.together l k = true) :
    (s.line k).Alike (s.line l) := by
  obtain ⟨ho, hd, hc⟩ := h.alike_lead l
  obtain ⟨go, gd, gc⟩ := h.alike_lead k
  have hlead : s.lead k = s.lead l := by simpa [State.together] using ht
  rw [hlead] at go gd gc
  exact ⟨go.symm.trans ho, gd.symm.trans hd, gc.symm.trans hc⟩

theorem State.together_pair {s : State} {p : PairIx} (h : s.complement p = true) (l : OutLine) :
    s.together l (lineA p) = s.together l (lineB p) := by
  simp only [State.together, State.lead_lineA, State.lead_lineB h]

theorem State.cuts_pair {s : State} {p : PairIx} (h : s.complement p = true) : s.cuts (lineA p) = s.cuts (lineB p) := by
  simp only [State.cuts, State.lead_lineA, State.lead_lineB h]

theorem State.wholePairs_getLsbD (s : State) (lines : LineSet) (l : OutLine) :
    (s.wholePairs lines).getLsbD l.val =
      (lines.getLsbD l.val ||
        (s.complement (pairOf l) &&
          (lines.getLsbD (lineA (pairOf l)).val || lines.getLsbD (lineB (pairOf l)).val))) := by
  rw [State.wholePairs, setOf_getLsbD]

theorem State.wholePairs_pair {s : State} {p : PairIx} (h : s.complement p = true) (lines : LineSet) :
    (s.wholePairs lines).getLsbD (lineA p).val = (s.wholePairs lines).getLsbD (lineB p).val := by
  rw [State.wholePairs_getLsbD, State.wholePairs_getLsbD, pairOf_lineA, pairOf_lineB, h]
  cases lines.getLsbD (lineA p).val <;> simp

/-! ### Changes of lines -/

namespace State.linesSound

variable {s t : State}

/-- The same lines, in pairs of the same modes. -/
theorem of_modes (h : s.linesSound) (hl : ∀ l, t.line l = s.line l) (hm : ∀ p, t.complement p = s.complement p) :
    t.linesSound := by
  refine ⟨fun l => ?_, fun p hp => ?_⟩
  · rw [hl]
    exact h.1 l
  · rw [hl, hl]
    exact h.2 p (hm p ▸ hp)

/-- A change made alike to the two lines of a COMPLEMENT pair. -/
theorem changeLines (h : s.linesSound) {on : OutLine → Bool} {f : OutputLine → OutputLine}
    (sound : ∀ l, on l = true → (f (s.line l)).sound) (alike : ∀ x y, x.Alike y → (f x).Alike (f y))
    (whole : ∀ p, s.complement p = true → on (lineA p) = on (lineB p)) : (s.changeLines on f).linesSound := by
  refine State.linesSound_iff.mpr ⟨fun l => ?_, fun p hp => ?_⟩
  · rw [State.changeLines_line]
    split
    · next hon => exact sound l hon
    · exact h.1 l
  · have hpair := h.2 p hp
    rw [State.changeLines_line, State.changeLines_line, ← whole p hp]
    split
    · exact alike _ _ hpair
    · exact hpair

end State.linesSound

namespace OutputLine

theorem claimed_sound (m : Master) (x : OutputLine) : (x.claimed m).sound := by simp [sound, claimed]
theorem released_sound (x : OutputLine) : x.released.sound := by simp [sound, released]
theorem stopped_sound {x : OutputLine} (h : x.sound) (hd : x.drive ≠ .float) : x.stopped.sound := by
  simp [sound, stopped, h.1, hd]
theorem cutOff_sound {x : OutputLine} (h : x.sound) (hd : x.drive ≠ .float) : x.cutOff.sound := by
  simp [sound, cutOff, h.1, hd]

theorem claimed_alike (m : Master) (x y : OutputLine) (h : x.Alike y) : (x.claimed m).Alike (y.claimed m) :=
  ⟨rfl, rfl, h.2.2⟩
theorem released_alike (x y : OutputLine) (h : x.Alike y) : x.released.Alike y.released := ⟨rfl, rfl, h.2.2⟩
theorem stopped_alike (x y : OutputLine) (h : x.Alike y) : x.stopped.Alike y.stopped := ⟨h.1, rfl, h.2.2⟩
theorem cutOff_alike (x y : OutputLine) (h : x.Alike y) : x.cutOff.Alike y.cutOff := ⟨h.1, rfl, h.2.2⟩

end OutputLine

/-! ### The lines and the Cutoff Unit together -/

/-- What O54 is about. -/
def State.outputsSafe (s : State) : Prop := s.linesSound ∧ s.cutoffSound

theorem State.cuts_iff (s : State) (l : OutLine) :
    s.cuts l = true ↔
      (s.line (s.lead l)).cutEnable = true ∧
        ((s.line (s.lead l)).drive = .disabled ∨ (s.line (s.lead l)).drive = .driven) := by
  unfold State.cuts
  simp

namespace State.outputsSafe

variable {s t : State}

/-- The same lines, pair modes and Cutoff Unit. -/
theorem of_modes (h : s.outputsSafe) (hl : ∀ l, t.line l = s.line l) (hm : ∀ p, t.complement p = s.complement p)
    (state : t.cutoff.state = s.cutoff.state) (trip : t.cutoff.trip = s.cutoff.trip) : t.outputsSafe := by
  refine ⟨h.1.of_modes hl hm, ?_⟩
  simpa only [State.cutoffSound, hl, state, trip] using h.2

/-- Lines that leave, or stand: none comes to be DRIVEN with its cut-enable set while TRIPPED, none CUT while ARMED. -/
theorem changeLines (h : s.outputsSafe) {on : OutLine → Bool} {f : OutputLine → OutputLine}
    (sound : ∀ l, on l = true → (f (s.line l)).sound) (alike : ∀ x y, x.Alike y → (f x).Alike (f y))
    (whole : ∀ p, s.complement p = true → on (lineA p) = on (lineB p))
    (tripped : ∀ l, on l = true → s.cutoff.state = .tripped → (f (s.line l)).cutEnable = true →
      (f (s.line l)).drive ≠ .driven)
    (uncut : ∀ l, on l = true → (f (s.line l)).drive ≠ .cut) : (s.changeLines on f).outputsSafe := by
  refine ⟨h.1.changeLines sound alike whole, fun ht l => ?_, fun ha l => ?_, h.2.2.2⟩
  · rw [State.changeLines_line]
    split
    · next hon => exact tripped l hon ht
    · exact h.2.1 ht l
  · rw [State.changeLines_line]
    split
    · next hon => exact uncut l hon
    · exact h.2.2.1 ha l

/-- Logical levels alone change, and only of DRIVEN lines. -/
theorem of_levels (h : s.outputsSafe)
    (hl : ∀ l, ∃ a, t.line l = { s.line l with active := a } ∧ ((s.line l).drive ≠ .driven → a = (s.line l).active))
    (hm : ∀ p, t.complement p = s.complement p) (hc : t.cutoff = s.cutoff) : t.outputsSafe := by
  have hline (l : OutLine) : (t.line l).owner = (s.line l).owner ∧ (t.line l).drive = (s.line l).drive ∧
      (t.line l).cutEnable = (s.line l).cutEnable := by
    obtain ⟨a, e, -⟩ := hl l
    rw [e]
    exact ⟨rfl, rfl, rfl⟩
  refine ⟨⟨fun l => ⟨?_, fun hd => ?_⟩, fun p hp => ?_⟩, ?_⟩
  · rw [(hline l).1, (hline l).2.1]
    exact (h.1.1 l).1
  · obtain ⟨a, e, ha⟩ := hl l
    rw [(hline l).2.1] at hd
    rw [e]
    exact (ha hd).trans ((h.1.1 l).2 hd)
  · simp only [hline]
    exact h.1.2 p (hm p ▸ hp)
  · simpa only [State.cutoffSound, hline, hc] using h.2

/-! #### Level requests and moves of a pair -/

theorem handOver_line (s : State) (p : PairIx) (side : Side) (l : OutLine) :
    ∃ a, (s.handOver p side).line l = { s.line l with active := a } ∧ (pairOf l ≠ p → a = (s.line l).active) := by
  rw [State.handOver_eq]
  simp only [State.setLine_line, State.setPair_line]
  by_cases hb : l = lineB p
  · subst hb
    exact ⟨side == .b, by simp, fun h => absurd (pairOf_lineB p) h⟩
  · by_cases ha : l = lineA p
    · subst ha
      exact ⟨side == .a, by simp [hb], fun h => absurd (pairOf_lineA p) h⟩
    · exact ⟨(s.line l).active, by simp [ha, hb], fun _ => rfl⟩

theorem handOver_complement (s : State) (p : PairIx) (side : Side) (k : PairIx) :
    (s.handOver p side).complement k = s.complement k := by
  rw [State.handOver_eq]
  simp only [State.complement, State.setLine_pair, State.setPair_pair]
  split
  · next h => rw [h]
  · rfl

theorem handOver (h : s.outputsSafe) {p : PairIx} (hp : s.complement p = true) (hd : (s.line (lineA p)).drive = .driven)
    (side : Side) : (s.handOver p side).outputsSafe := by
  refine h.of_levels (fun l => ?_) (fun k => handOver_complement s p side k) (by simp)
  obtain ⟨a, e, ha⟩ := handOver_line s p side l
  refine ⟨a, e, fun hn => ha ?_⟩
  rintro rfl
  have hboth := (h.1.2 _ hp).2.1
  rcases line_of_pair l with hl | hl
  · exact hn (hl ▸ hd)
  · exact hn (hl ▸ (hboth ▸ hd))

/-- The A line of a DRIVEN COMPLEMENT pair is DRIVEN, whichever of its lines is asked. -/
theorem lineA_driven (h : s.linesSound) {l : OutLine} (hd : (s.line l).drive = .driven)
    (hc : s.complement (pairOf l) = true) : (s.line (lineA (pairOf l))).drive = .driven := by
  have hlead : s.lead l = lineA (pairOf l) := by simp [State.lead, hc]
  rw [← hlead, (h.alike_lead l).2.1, hd]

theorem requestLevel (h : s.outputsSafe) (l : OutLine) (q : LevelRequest) : (s.requestLevel l q).outputsSafe := by
  unfold State.requestLevel
  split
  · next hd =>
    split
    · refine h.of_levels (fun k => ?_) (fun _ => rfl) rfl
      rw [State.setLine_line]
      split
      · next hk => exact ⟨_, by rw [hk], fun hn => absurd (hk ▸ hd) hn⟩
      · exact ⟨(s.line k).active, rfl, fun _ => rfl⟩
    · next hm =>
      have hc : s.complement (pairOf l) = true := by simp [State.complement, hm]
      have ha := lineA_driven h.1 hd hc
      unfold State.requestPair
      split
      · exact h.handOver hc ha _
      · exact h.handOver hc ha _
      · exact h.handOver hc ha _
      · exact h.handOver hc ha _
      · exact h
  · exact h

theorem requestTarget (h : s.outputsSafe) (r : ActionRecord) (q : LevelRequest) : (s.requestTarget r q).outputsSafe := by
  unfold State.requestTarget
  split
  · exact h.requestLevel _ q
  · exact h
  · exact h

/-! #### Dead times -/

theorem expireDeadTime (h : s.outputsSafe) (p : PairIx) : (s.expireDeadTime p).outputsSafe := by
  unfold State.expireDeadTime
  split
  · refine h.of_modes (fun _ => rfl) (fun k => ?_) rfl rfl
    simp only [State.complement, State.setPair_pair]
    split
    · next hk => subst hk; unfold Pair.expire; split <;> rfl
    · rfl
  · exact h

theorem tickDeadTimes (h : s.outputsSafe) : s.tickDeadTimes.outputsSafe :=
  h.of_modes (fun _ => rfl) (fun k => by simp only [State.complement, State.tickDeadTimes_pair]) rfl rfl

/-! #### The Cutoff Unit -/

theorem clearPairs_complement (s : State) (on : OutLine → Bool) (p : PairIx) :
    (s.clearPairs on).complement p = s.complement p := by
  unfold State.complement
  rw [State.clearPairs_pair]
  split <;> rfl

theorem clearPairs (h : s.outputsSafe) (on : OutLine → Bool) : (s.clearPairs on).outputsSafe :=
  h.of_modes (fun _ => rfl) (clearPairs_complement s on) rfl rfl

/-- R137: every cut-enabled line that was DRIVEN is CUT. -/
theorem tripLines (h : s.outputsSafe) (src : CutSource) (t : Timestamp) :
    (s.cutLines.setCutoff { s.cutoff with state := .tripped, trip := some ⟨src, t, single src.bit⟩ }).outputsSafe := by
  have hcut (l : OutLine) (hl : s.cuts l = true) : (s.line l).drive ≠ .float := by
    rw [← (h.1.alike_lead l).2.1]
    rcases ((s.cuts_iff l).mp hl).2 with hd | hd <;> simp [hd]
  refine ⟨?_, fun _ l hc hd => ?_, fun ha => ?_, by simp⟩
  · exact State.linesSound.of_modes (s := s.cutLines)
      ((h.clearPairs s.cuts).1.changeLines (fun l hl => OutputLine.cutOff_sound (h.1.1 l) (hcut l hl))
        OutputLine.cutOff_alike fun p hp => State.cuts_pair (clearPairs_complement s _ p ▸ hp))
      (fun _ => rfl) fun _ => rfl
  · have hline : s.cutLines.line l = if s.cuts l then (s.line l).cutOff else s.line l := by
      rw [State.cutLines, State.changeLines_line]
      rfl
    rw [State.setCutoff_line, hline] at hc hd
    split at hc
    · next hl => rw [if_pos hl] at hd; cases hd
    · next hl =>
      rw [if_neg hl] at hd
      obtain ⟨-, gd, gc⟩ := h.1.alike_lead l
      exact hl ((s.cuts_iff l).mpr ⟨gc.trans hc, .inr (gd.trans hd)⟩)
  · simp at ha

theorem see (h : s.outputsSafe) (src : CutSource) : (s.setCutoff (s.cutoff.see src)).outputsSafe :=
  ⟨h.1, h.2.1, h.2.2.1, by simpa [Cutoff.see] using h.2.2.2⟩

theorem rearm (h : s.outputsSafe) (hm : s.mayRearm = true) :
    (s.setCutoff { s.cutoff with state := .armed, trip := none }).outputsSafe := by
  have huncut (l : OutLine) : (s.line l).drive ≠ .cut := fun hc => by
    have hany : s.anyCut (BitVec.allOnes 8) = true :=
      State.anyCut_iff.mpr ⟨l, by rw [BitVec.getLsbD_allOnes]; exact decide_eq_true l.isLt, hc⟩
    simp only [State.mayRearm, hany, Bool.not_true, Bool.and_false] at hm
    cases hm
  refine ⟨h.1, fun ht => ?_, fun _ => huncut, by simp⟩
  simp at ht

/-! #### The commands on lines and pairs -/

theorem claim (h : s.outputsSafe) (m : Master) (l : OutLine) :
    (s.changeLines (s.together l) (OutputLine.claimed m)).outputsSafe :=
  h.changeLines (fun _ _ => OutputLine.claimed_sound m _) (OutputLine.claimed_alike m)
    (fun _ hp => State.together_pair hp l) (fun _ _ _ _ => by simp [OutputLine.claimed])
    fun _ _ => by simp [OutputLine.claimed]

/-- A set of lines that holds COMPLEMENT pairs whole, released. -/
theorem releaseAll (h : s.outputsSafe) {on : OutLine → Bool}
    (whole : ∀ p, s.complement p = true → on (lineA p) = on (lineB p)) :
    (s.changeLines on OutputLine.released).outputsSafe :=
  h.changeLines (fun _ _ => OutputLine.released_sound _) OutputLine.released_alike whole
    (fun _ _ _ _ => by simp [OutputLine.released]) fun _ _ => by simp [OutputLine.released]

/-- A set of lines with owners that holds COMPLEMENT pairs whole, DISABLED. -/
theorem stopAll (h : s.outputsSafe) {on : OutLine → Bool} (owned : ∀ l, on l = true → (s.line l).drive ≠ .float)
    (whole : ∀ p, s.complement p = true → on (lineA p) = on (lineB p)) :
    (s.changeLines on OutputLine.stopped).outputsSafe :=
  h.changeLines (fun l hl => OutputLine.stopped_sound (h.1.1 l) (owned l hl)) OutputLine.stopped_alike whole
    (fun _ _ _ _ => by simp [OutputLine.stopped]) fun _ _ => by simp [OutputLine.stopped]

theorem releaseLines (h : s.outputsSafe) (lines : LineSet) : (s.releaseLines (s.wholePairs lines)).outputsSafe :=
  (h.clearPairs _).releaseAll fun p hp => State.wholePairs_pair (clearPairs_complement s _ p ▸ hp) lines

theorem configureLine_line (s : State) (l : OutLine) (c : LineSettings) (k : OutLine) :
    ((s.configureLine l c).line k).owner = (s.line k).owner ∧ ((s.configureLine l c).line k).drive = (s.line k).drive ∧
      ((s.configureLine l c).line k).active = (s.line k).active ∧
      ((s.configureLine l c).line k).cutEnable =
        if s.together l k && !s.complementB l then c.cutEnable else (s.line k).cutEnable := by
  simp only [State.configureLine, State.line, Fin.getElem_fin, Vector.getElem_ofFn]
  split_ifs <;> simp

theorem configureLine (h : s.outputsSafe) {l : OutLine} (c : LineSettings) (hd : (s.line l).drive = .disabled) :
    (s.configureLine l c).outputsSafe := by
  have hline := configureLine_line s l c
  have hdrive (k : OutLine) : ((s.configureLine l c).line k).drive = (s.line k).drive := (hline k).2.1
  refine ⟨⟨fun k => ?_, fun p hp => ?_⟩, fun ht k hc => ?_, fun ha k => ?_, h.2.2.2⟩
  · rw [(hline k).1, hdrive, (hline k).2.2.1]
    exact h.1.1 k
  · obtain ⟨ho, hdr, hce⟩ := h.1.2 p hp
    rw [(hline _).1, (hline _).1, hdrive, hdrive, (hline _).2.2.2, (hline _).2.2.2,
      ← State.together_pair (s := s) hp l]
    refine ⟨ho, hdr, ?_⟩
    split
    · rfl
    · exact hce
  · rw [hdrive]
    rw [(hline k).2.2.2] at hc
    split at hc
    · next hk =>
      rw [Bool.and_eq_true] at hk
      simp [(h.1.alike_together hk.1).2.1, hd]
    · exact h.2.1 ht k hc
  · rw [hdrive]
    exact h.2.2.1 ha k

theorem together_self (s : State) (l : OutLine) : s.together l l = true := by simp [State.together]

/-- R120: lines that act as one become DRIVEN; the Unit must not be TRIPPED if they are cut-enabled. -/
theorem drive (h : s.outputsSafe) {l : OutLine} (hd : (s.line l).drive = .disabled)
    (safe : (s.line l).cutEnable = true → s.cutoff.state ≠ .tripped) :
    (s.changeLines (s.together l) fun x => { x with drive := .driven, active := false }).outputsSafe := by
  refine h.changeLines (fun k hk => ?_) (fun x y hxy => ⟨hxy.1, rfl, hxy.2.2⟩) (fun _ hp => State.together_pair hp l)
    (fun k hk ht hc => ?_) fun _ _ => by simp
  · have hown : (s.line k).owner ≠ none := fun hn => by
      have hfloat := ((h.1.1 k).1).mp hn
      rw [(h.1.alike_together hk).2.1, hd] at hfloat
      cases hfloat
    simp [OutputLine.sound, hown]
  · exact absurd ht (safe ((h.1.alike_together hk).2.2 ▸ hc))

theorem enableLine (h : s.outputsSafe) {l : OutLine} (hd : (s.line l).drive = .disabled)
    (safe : (s.line l).cutEnable = true → s.cutoff.state ≠ .tripped) : (s.enableLine l).outputsSafe := by
  unfold State.enableLine
  dsimp only
  split
  · next hc =>
    refine (h.drive hd safe).handOver hc ?_ .b
    rw [State.changeLines_line, if_pos]
    simp [State.together, State.lead, hc]
  · exact h.drive hd safe

theorem disableLine (h : s.outputsSafe) {l : OutLine} (hd : (s.line l).drive = .driven) : (s.disableLine l).outputsSafe :=
  (h.clearPairs _).stopAll (fun k hk => by
      have hdk := (h.1.alike_together hk).2.1
      rw [hd] at hdk
      rw [State.clearPairs_line, hdk]
      simp)
    fun p hp => State.together_pair (clearPairs_complement s _ p ▸ hp) l

theorem pairRefusal_none {m : Master} {p : PairIx} {mode : PairMode} (h : s.pairRefusal m p mode = none) :
    ((s.line (lineA p)).owner = some m ∧ (s.line (lineB p)).owner = some m) ∧
      ((s.line (lineA p)).drive = .disabled ∧ (s.line (lineB p)).drive = .disabled) ∧
      (mode = .complement → (s.line (lineA p)).cutEnable = (s.line (lineB p)).cutEnable) := by
  unfold State.pairRefusal at h
  dsimp only at h
  split_ifs at h with ho hd hc
  simp only [not_or, not_not] at ho hd
  exact ⟨ho, hd, fun hm => by_contra fun hne => hc ⟨hm, hne⟩⟩

theorem configurePair (h : s.outputsSafe) {m : Master} {p : PairIx} {mode : PairMode} (d : Nat)
    (passed : s.pairRefusal m p mode = none) :
    (s.setPair p { s.pair p with mode := mode, deadTime := d }).outputsSafe := by
  obtain ⟨⟨hoa, hob⟩, ⟨hda, hdb⟩, hce⟩ := pairRefusal_none passed
  refine ⟨⟨h.1.1, fun k hk => ?_⟩, h.2⟩
  by_cases hkp : k = p
  · subst hkp
    have hmode : mode = .complement := by simpa [State.complement] using hk
    exact ⟨hoa.trans hob.symm, hda.trans hdb.symm, hce hmode⟩
  · exact h.1.2 k (by simpa [State.complement, hkp] using hk)

theorem restoreRefusal_none {m : Master} {lines : LineSet} (h : s.restoreRefusal m lines = none) :
    ∀ l : OutLine, lines.getLsbD l.val = true →
      s.complementB l = false ∧ (s.line l).owner = some m ∧ (s.line l).drive = .cut := by
  intro l hl
  unfold State.restoreRefusal at h
  split_ifs at h with hb ho hd
  have hall {p : OutLine → Bool} (hp : allLines lines p = true) : p l = true := by
    have hmem := List.all_eq_true.mp hp l (List.mem_finRange l)
    rwa [hl] at hmem
  simp only [not_or, Bool.not_eq_true, Bool.not_eq_false'] at hb ho hd
  refine ⟨?_, by simpa using hall ho, by simpa using hall hd⟩
  simpa using hall hb.2

/-- Every line a CUT_RESTORE changes is CUT: a listed one, or the B line of a listed A line. -/
theorem restored_cut (h : s.linesSound) {m : Master} {lines : LineSet} (passed : s.restoreRefusal m lines = none)
    (l : OutLine) (hl : (s.wholePairs lines).getLsbD l.val = true) : (s.line l).drive = .cut := by
  have hlisted := restoreRefusal_none passed
  rw [State.wholePairs_getLsbD, Bool.or_eq_true, Bool.and_eq_true, Bool.or_eq_true] at hl
  rcases hl with hl | ⟨hc, hl | hl⟩
  · exact (hlisted l hl).2.2
  · have ha := (hlisted _ hl).2.2
    have hlead : s.lead l = lineA (pairOf l) := by simp [State.lead, hc]
    rw [← (h.alike_lead l).2.1, hlead, ha]
  · have hb := (hlisted _ hl).1
    simp [State.complementB, hc] at hb

theorem restore (h : s.outputsSafe) {m : Master} {lines : LineSet} (passed : s.restoreRefusal m lines = none) :
    (s.changeLines (fun l => (s.wholePairs lines).getLsbD l.val) OutputLine.stopped).outputsSafe :=
  h.stopAll (fun l hl => by simp [restored_cut h.1 passed l hl]) fun _ hp => State.wholePairs_pair hp lines

end State.outputsSafe

/-- The lines and the Cutoff Unit are kept by every operation on them. -/
theorem outputsSafe_invariant : OutputInvariant State.outputsSafe where
  reset := ⟨State.reset_linesSound, State.reset_cutoffSound⟩
  stand _ _ g h := h.of_modes g.line g.complement g.state g.trip
  requestTarget _ r q h := h.requestTarget r q
  expireDeadTime _ p h := h.expireDeadTime p
  tickDeadTimes _ h := h.tickDeadTimes
  trip s src t _ h :=
    have g := s.trip_stand src t
    (h.tripLines src t).of_modes g.line g.complement g.state g.trip
  see _ src _ h := h.see src
  rearm _ hm h := h.rearm hm
  submit _ _ _ _ h := h.of_modes (fun _ => rfl) (fun _ => rfl) rfl rfl
  claim _ m l _ h := h.claim m l
  release _ l _ h := h.releaseAll fun _ hp => State.together_pair hp l
  configureLine _ _ c hd _ h := h.configureLine c hd
  enable _ _ _ hd safe h := h.enableLine hd safe
  disable _ _ _ hd _ h := h.disableLine hd
  configurePair _ _ _ _ d passed h := h.configurePair d passed
  restore _ _ _ passed h := h.restore passed
  tearDown s m h := by
    have hdrop : (((s.setAttachment m .detached).setQueue m (s.queue m).emptied).dropRecords
        (ActionRecord.ownedBy m)).outputsSafe := h.of_modes (fun _ => rfl) (fun _ => rfl) rfl rfl
    exact hdrop.releaseLines (s.ownedLines m)
  writeRights s c h := by
    refine State.writeRights_keeps (fun _ _ g h => h.of_modes g.line g.complement g.state g.trip)
      (fun _ hm h => h.rearm hm) s c ?_
    have hset : (s.setRight c.master c.rights).outputsSafe := h.of_modes (fun _ => rfl) (fun _ => rfl) rfl rfl
    exact hset.releaseLines _

end Sys2Proof.Machine

open Sys2Proof Sys2Proof.Machine

/-- Settles O54: what O54 is about is an invariant of the outputs. -/
theorem everyStepKeepsCutLinesSafe : Obligations.EveryStepKeepsCutLinesSafe := by
  unfold Obligations.EveryStepKeepsCutLinesSafe
  exact fun _ _ hl hc hstep => outputsSafe_invariant.step ⟨hl, hc⟩ hstep

end

section
/-! PROOF. Every step keeps a complementary pair's state in agreement with its lines and its dead time, and its two pins are never
both at their active levels (R114, R126). -/
namespace Sys2Proof.Machine

/-! ### One pair and its two lines -/

/-- The pair's state and dead-time record fit its lines a and b. -/
def Pair.Fits (x : Pair) (a b : OutputLine) : Prop :=
  match x.state with
  | none => x.record = none ∧ ¬((x.mode == .complement) = true ∧ a.drive = .driven)
  | some ps =>
    (x.mode == .complement) = true ∧ a.drive = .driven ∧ a.active = ps.logical .a ∧ b.active = ps.logical .b ∧
      x.record.map DeadTimeRecord.line = ps.waitsFor ∧ ∀ r, x.record = some r → 1 ≤ r.remaining ∧ r.remaining ≤ x.deadTime

theorem State.pairsSound_iff {s : State} : s.pairsSound ↔ ∀ p, (s.pair p).Fits (s.line (lineA p)) (s.line (lineB p)) := Iff.rfl

namespace Pair.Fits

variable {x : Pair} {a b : OutputLine}

/-- Without a state and a record, unless the pair is COMPLEMENT and DRIVEN. -/
theorem of_idle (hs : x.state = none) (hr : x.record = none) (h : ¬((x.mode == .complement) = true ∧ a.drive = .driven)) :
    x.Fits a b := by
  simpa only [Pair.Fits, hs] using ⟨hr, h⟩

/-- A pair that is not COMPLEMENT and DRIVEN has no state and no record. -/
theorem idle (h : x.Fits a b) (hn : ¬((x.mode == .complement) = true ∧ a.drive = .driven)) :
    x.state = none ∧ x.record = none := by
  unfold Pair.Fits at h
  split at h
  · next hs => exact ⟨hs, h.1⟩
  · exact absurd ⟨h.1, h.2.1⟩ hn

/-- The lines an INDEPENDENT pair has do not matter. -/
theorem of_independent (h : x.Fits a b) (hm : (x.mode == .complement) = false) (a' b' : OutputLine) : x.Fits a' b' := by
  obtain ⟨hs, hr⟩ := h.idle (by simp [hm])
  exact of_idle hs hr (by simp [hm])

/-- The drive state of the A line and the logical levels of both are what matters. -/
theorem congr (h : x.Fits a b) {a' b' : OutputLine} (hd : a'.drive = a.drive) (ha : a'.active = a.active)
    (hb : b'.active = b.active) : x.Fits a' b' := by
  unfold Pair.Fits
  rw [hd, ha, hb]
  exact h

theorem cleared (x : Pair) (b : OutputLine) (hd : a.drive ≠ .driven) : x.cleared.Fits a b :=
  of_idle rfl rfl fun h => hd h.2

/-- R126: the end of a dead time leaves the logical levels. -/
theorem expire (h : x.Fits a b) : x.expire.Fits a b := by
  have run (r : DeadTimeRecord) (hr : x.record = some r) :
      Pair.Fits { x with state := some (match r.line with | .a => .aActive | .b => .bActive), record := none } a b := by
    cases hs : x.state with
    | none => simp [Pair.Fits, hs, hr] at h
    | some ps =>
      simp only [Pair.Fits, hs, hr, Option.map_some] at h
      obtain ⟨hm, hd, ha, hb, hw, -⟩ := h
      cases ps <;> simp_all [Pair.Fits, PairState.waitsFor, PairState.logical]
  unfold Pair.expire
  split
  · next hr => exact run _ hr
  · next hr => exact run _ hr
  · exact h

/-- R128: a tick leaves at least 1 tick of a dead time. -/
theorem tick (h : x.Fits a b) : Pair.Fits { x with record := x.record.map DeadTimeRecord.tick } a b := by
  have hline (r : DeadTimeRecord) : r.tick.line = r.line := by unfold DeadTimeRecord.tick; split <;> rfl
  have hcount (r : DeadTimeRecord) (d : Nat) (hr : 1 ≤ r.remaining ∧ r.remaining ≤ d) :
      1 ≤ r.tick.remaining ∧ r.tick.remaining ≤ d := by
    unfold DeadTimeRecord.tick
    split <;> dsimp only <;> omega
  cases hs : x.state with
  | none => simpa [Pair.Fits, hs] using h
  | some ps =>
    simp only [Pair.Fits, hs] at h ⊢
    obtain ⟨hm, hd, ha, hb, hw, hrem⟩ := h
    refine ⟨hm, hd, ha, hb, ?_, fun r hr => ?_⟩
    · rw [← hw, Option.map_map]
      exact congrArg (fun f => Option.map f x.record) (funext hline)
    · obtain ⟨y, hy, rfl⟩ := Option.map_eq_some_iff.mp hr
      exact hcount y _ (hrem y hy)

end Pair.Fits

/-! ### Changes of pairs and lines -/

namespace State.pairsSound

variable {s t : State}

/-- The same pairs, and lines that drive and show what they did. -/
theorem of_lines (h : s.pairsSound) (hp : ∀ p, t.pair p = s.pair p)
    (hl : ∀ l, (t.line l).drive = (s.line l).drive ∧ (t.line l).active = (s.line l).active) : t.pairsSound := by
  refine State.pairsSound_iff.mpr fun p => ?_
  rw [hp]
  exact (State.pairsSound_iff.mp h p).congr (hl _).1 (hl _).2 (hl _).2

/-- A change of one pair and its lines. -/
theorem of_pair (h : s.pairsSound) (p : PairIx) (others : ∀ k, k ≠ p → t.pair k = s.pair k)
    (lines : ∀ l, pairOf l ≠ p → t.line l = s.line l) (fits : (t.pair p).Fits (t.line (lineA p)) (t.line (lineB p))) :
    t.pairsSound := by
  refine State.pairsSound_iff.mpr fun k => ?_
  by_cases hk : k = p
  · subst hk; exact fits
  · rw [others k hk, lines (lineA k) (by simpa using hk), lines (lineB k) (by simpa using hk)]
    exact h k


/-- Lines that stop being DRIVEN, or were not, in whole pairs whose state and record are gone. -/
theorem halt {on : OutLine → Bool} {f : OutputLine → OutputLine}
    (h : ∀ p, (s.complement p && on (lineA p)) = false → (s.pair p).Fits (s.line (lineA p)) (s.line (lineB p)))
    (gone : ∀ p, s.complement p = true → on (lineA p) = true → (s.pair p).state = none ∧ (s.pair p).record = none)
    (whole : ∀ p, s.complement p = true → on (lineA p) = on (lineB p)) (hf : ∀ x, (f x).drive ≠ .driven) :
    (s.changeLines on f).pairsSound := by
  refine State.pairsSound_iff.mpr fun p => ?_
  rw [State.changeLines_pair, State.changeLines_line, State.changeLines_line]
  cases hc : s.complement p
  · exact (h p (by simp [hc])).of_independent hc _ _
  · rw [← whole p hc]
    split
    · next ho => exact .of_idle (gone p hc ho).1 (gone p hc ho).2 fun hd => hf _ hd.2
    · next ho => exact h p (by simp [hc, ho])

/-- Lines that stop being DRIVEN with their pair states (R121, R129, R131). -/
theorem stopLines (h : s.pairsSound) {on : OutLine → Bool} {f : OutputLine → OutputLine}
    (whole : ∀ p, s.complement p = true → on (lineA p) = on (lineB p)) (hf : ∀ x, (f x).drive ≠ .driven) :
    ((s.clearPairs on).changeLines on f).pairsSound := by
  have hmode (p : PairIx) := State.outputsSafe.clearPairs_complement s on p
  refine halt (fun p hp => ?_) (fun p hc ho => ?_) (fun p hc => whole p (hmode p ▸ hc)) hf
  · rw [hmode] at hp
    rw [State.clearPairs_pair, hp]
    exact h p
  · rw [hmode] at hc
    rw [State.clearPairs_pair, hc, ho]
    exact ⟨rfl, rfl⟩

/-- Lines that were not DRIVEN. -/
theorem changeIdle (h : s.pairsSound) {on : OutLine → Bool} {f : OutputLine → OutputLine}
    (idle : ∀ l, on l = true → (s.line l).drive ≠ .driven)
    (whole : ∀ p, s.complement p = true → on (lineA p) = on (lineB p)) (hf : ∀ x, (f x).drive ≠ .driven) :
    (s.changeLines on f).pairsSound :=
  halt (fun p _ => h p) (fun p _ ho => (State.pairsSound_iff.mp h p).idle fun hd => idle _ ho hd.2) whole hf

/-! #### A pair that moves -/

/-- R120, R127: a DRIVEN COMPLEMENT pair that moves toward a side. -/
theorem handOver_fits {p : PairIx} (hc : s.complement p = true) (hd : (s.line (lineA p)).drive = .driven) (side : Side) :
    ((s.handOver p side).pair p).Fits ((s.handOver p side).line (lineA p)) ((s.handOver p side).line (lineB p)) := by
  rw [State.handOver_eq]
  simp only [State.setLine_pair, State.setPair_pair, State.setLine_line, State.setPair_line, if_true, lineA_ne_lineB,
    if_false]
  have hm : ((s.pair p).mode == .complement) = true := hc
  by_cases h0 : (s.pair p).deadTime = 0
  · cases side <;> simp [Pair.Fits, h0, hm, hd, PairState.logical, PairState.waitsFor]
  · cases side <;> simp [Pair.Fits, h0, hm, hd, PairState.logical, PairState.waitsFor] <;> omega

theorem handOver_other (s : State) {p : PairIx} (side : Side) :
    (∀ k, k ≠ p → (s.handOver p side).pair k = s.pair k) ∧ ∀ l, pairOf l ≠ p → (s.handOver p side).line l = s.line l := by
  rw [State.handOver_eq]
  refine ⟨fun k hk => ?_, fun l hl => ?_⟩
  · rw [State.setLine_pair, State.setLine_pair, State.setPair_pair, if_neg hk]
  · have ha : l ≠ lineA p := fun e => hl (e ▸ pairOf_lineA p)
    have hb : l ≠ lineB p := fun e => hl (e ▸ pairOf_lineB p)
    rw [State.setLine_line, if_neg hb, State.setLine_line, if_neg ha, State.setPair_line]

theorem handOver (h : s.pairsSound) {p : PairIx} (hc : s.complement p = true) (hd : (s.line (lineA p)).drive = .driven)
    (side : Side) : (s.handOver p side).pairsSound :=
  h.of_pair p (handOver_other s side).1 (handOver_other s side).2 (handOver_fits hc hd side)

theorem requestLevel (h : s.pairsSound) (hs : s.linesSound) (l : OutLine) (q : LevelRequest) :
    (s.requestLevel l q).pairsSound := by
  unfold State.requestLevel
  split
  · next hd =>
    split
    · next hm =>
      refine h.of_pair (pairOf l) (fun _ _ => rfl) (fun k hk => ?_) ?_
      · rw [State.setLine_line, if_neg fun e => hk (congrArg pairOf e)]
      · exact (State.pairsSound_iff.mp h _).of_independent (by simp [hm]) _ _
    · next hm =>
      have hc : s.complement (pairOf l) = true := by simp [State.complement, hm]
      have ha := State.outputsSafe.lineA_driven hs hd hc
      unfold State.requestPair
      split
      · exact h.handOver hc ha _
      · exact h.handOver hc ha _
      · exact h.handOver hc ha _
      · exact h.handOver hc ha _
      · exact h
  · exact h

theorem requestTarget (h : s.pairsSound) (hs : s.linesSound) (r : ActionRecord) (q : LevelRequest) :
    (s.requestTarget r q).pairsSound := by
  unfold State.requestTarget
  split
  · exact h.requestLevel hs _ q
  · exact h
  · exact h

theorem expireDeadTime (h : s.pairsSound) (p : PairIx) : (s.expireDeadTime p).pairsSound := by
  unfold State.expireDeadTime
  split
  · refine h.of_pair p (fun k hk => ?_) (fun _ _ => rfl) ?_
    · rw [State.setPair_pair, if_neg hk]
    · rw [State.setPair_pair, if_pos rfl]
      exact (State.pairsSound_iff.mp h p).expire
  · exact h

theorem tickDeadTimes (h : s.pairsSound) : s.tickDeadTimes.pairsSound := by
  refine State.pairsSound_iff.mpr fun p => ?_
  rw [State.tickDeadTimes_pair]
  exact (State.pairsSound_iff.mp h p).tick

/-! #### The commands on lines and pairs -/

theorem enableLine (h : s.pairsSound) (l : OutLine) : (s.enableLine l).pairsSound := by
  have htog (k : OutLine) (hk : s.together l k = true) : pairOf k = pairOf l := by
    rw [State.together_eq, Bool.or_eq_true, Bool.and_eq_true, beq_iff_eq, beq_iff_eq] at hk
    rcases hk with rfl | ⟨-, hk⟩
    · rfl
    · exact hk
  have hline (k : OutLine) (hk : pairOf k ≠ pairOf l) :
      (s.changeLines (s.together l) fun x => { x with drive := .driven, active := false }).line k = s.line k := by
    rw [State.changeLines_line, if_neg fun e => hk (htog k e)]
  unfold State.enableLine
  dsimp only
  split
  · next hc =>
    obtain ⟨pairs, lines⟩ := handOver_other
      (s.changeLines (s.together l) fun x => { x with drive := .driven, active := false }) (p := pairOf l) .b
    refine h.of_pair (pairOf l) pairs (fun k hk => (lines k hk).trans (hline k hk)) (handOver_fits ?_ ?_ .b)
    · exact hc
    rw [State.changeLines_line, if_pos]
    simp [State.together, State.lead, hc]
  · next hc =>
    exact h.of_pair (pairOf l) (fun _ _ => rfl) hline
      ((State.pairsSound_iff.mp h _).of_independent (by simpa [State.complement] using hc) _ _)

theorem configurePair (h : s.pairsSound) {p : PairIx} (hd : (s.line (lineA p)).drive = .disabled) (mode : PairMode) (d : Nat) :
    (s.setPair p { s.pair p with mode := mode, deadTime := d }).pairsSound := by
  have hn : (s.line (lineA p)).drive ≠ .driven := by simp [hd]
  refine h.of_pair p (fun k hk => by rw [State.setPair_pair, if_neg hk]) (fun _ _ => rfl) ?_
  rw [State.setPair_pair, if_pos rfl]
  obtain ⟨hs, hr⟩ := (State.pairsSound_iff.mp h p).idle fun hd' => hn hd'.2
  exact .of_idle hs hr fun hd' => hn hd'.2

theorem releaseLines (h : s.pairsSound) (lines : LineSet) : (s.releaseLines (s.wholePairs lines)).pairsSound :=
  h.stopLines (fun _ hp => State.wholePairs_pair hp lines) fun _ => by simp [OutputLine.released]

end State.pairsSound

/-- The pairs are kept with the lines and the Cutoff Unit by every operation on them. -/
theorem pairsSound_invariant : OutputInvariant fun s => s.outputsSafe ∧ s.pairsSound where
  reset := ⟨outputsSafe_invariant.reset, State.reset_pairsSound⟩
  stand _ _ g h :=
    ⟨outputsSafe_invariant.stand _ _ g h.1, h.2.of_lines g.pair fun l => by rw [g.line]; exact ⟨rfl, rfl⟩⟩
  requestTarget _ r q h := ⟨h.1.requestTarget r q, h.2.requestTarget h.1.1 r q⟩
  expireDeadTime _ p h := ⟨h.1.expireDeadTime p, h.2.expireDeadTime p⟩
  tickDeadTimes _ h := ⟨h.1.tickDeadTimes, h.2.tickDeadTimes⟩
  trip s src t ha h := by
    have g := s.trip_stand src t
    have hcut : s.cutLines.pairsSound :=
      h.2.stopLines (fun _ hp => State.cuts_pair hp) fun _ => by simp [OutputLine.cutOff]
    exact ⟨outputsSafe_invariant.trip s src t ha h.1,
      hcut.of_lines g.pair fun l => by rw [g.line]; exact ⟨rfl, rfl⟩⟩
  see _ src _ h := ⟨h.1.see src, h.2⟩
  rearm _ hm h := ⟨h.1.rearm hm, h.2⟩
  submit s n r hr h := ⟨outputsSafe_invariant.submit s n r hr h.1, h.2⟩
  claim s m l free h := by
    refine ⟨h.1.claim m l, h.2.changeIdle (fun k hk => ?_) (fun _ hp => State.together_pair hp l)
      fun _ => by simp [OutputLine.claimed]⟩
    simp [(h.1.1.alike_together hk).2.1, free]
  release s l undriven h := by
    refine ⟨outputsSafe_invariant.release s l undriven h.1,
      h.2.changeIdle (fun k hk => ?_) (fun _ hp => State.together_pair hp l) fun _ => by simp [OutputLine.released]⟩
    rw [(h.1.1.alike_together hk).2.1]
    exact undriven
  configureLine s l c disabled agrees h :=
    ⟨h.1.configureLine c disabled, h.2.of_lines (fun _ => rfl) fun k =>
      have hk := State.outputsSafe.configureLine_line s l c k
      ⟨hk.2.1, hk.2.2.1⟩⟩
  enable _ l _ disabled safe h := ⟨h.1.enableLine disabled safe, h.2.enableLine l⟩
  disable _ l _ driven _ h :=
    ⟨h.1.disableLine driven,
      h.2.stopLines (fun _ hp => State.together_pair hp l) fun _ => by simp [OutputLine.stopped]⟩
  configurePair _ _ _ mode d passed h :=
    ⟨h.1.configurePair d passed, h.2.configurePair (State.outputsSafe.pairRefusal_none passed).2.1.1 mode d⟩
  restore s m lines passed h := by
    refine ⟨h.1.restore passed, h.2.changeIdle (fun l hl => ?_) (fun _ hp => State.wholePairs_pair hp lines)
      fun _ => by simp [OutputLine.stopped]⟩
    simp [State.outputsSafe.restored_cut h.1.1 passed l hl]
  tearDown s m h := by
    have hdrop : (((s.setAttachment m .detached).setQueue m (s.queue m).emptied).dropRecords
        (ActionRecord.ownedBy m)).pairsSound := h.2
    exact ⟨outputsSafe_invariant.tearDown s m h.1, hdrop.releaseLines (s.ownedLines m)⟩
  writeRights s c h := by
    have hset : (s.setRight c.master c.rights).pairsSound := h.2
    exact ⟨outputsSafe_invariant.writeRights s c h.1,
      State.writeRights_keeps (P := State.pairsSound)
        (fun _ _ g h => h.of_lines g.pair fun l => by rw [g.line]; exact ⟨rfl, rfl⟩) (fun _ _ h => h) s c
        (hset.releaseLines _)⟩

/-! ### The two pins of a pair -/

theorem OutputLine.pinLevel_inactive_ne (x : OutputLine) : x.pinLevel false ≠ x.pinLevel true := by
  unfold OutputLine.pinLevel
  cases x.polarity <;> simp

theorem OutputLine.pinLevel_ne_float (x : OutputLine) (a : Bool) : x.pinLevel a ≠ .float := by
  unfold OutputLine.pinLevel
  cases x.polarity <;> cases a <;> simp

/-- A pin at its active level is DRIVEN and driven active, unless its line is CUT. -/
theorem State.drivenActive_of_electrical {s : State} {l : OutLine} (hc : (s.line l).drive ≠ .cut)
    (h : s.electrical l = (s.line l).pinLevel true) : s.drivenActive l = true := by
  cases hd : (s.line l).drive with
  | float => rw [State.electrical_of_float hd] at h; exact absurd h.symm (OutputLine.pinLevel_ne_float _ _)
  | disabled => rw [State.electrical_of_disabled hd] at h; exact absurd h (OutputLine.pinLevel_inactive_ne _)
  | cut => exact absurd hd hc
  | driven =>
    rw [State.electrical_of_driven hd] at h
    by_contra hn
    rw [Bool.not_eq_true] at hn
    exact OutputLine.pinLevel_inactive_ne _ (hn ▸ h)

/-- R126: a pair state shows at most one of the two pins active. -/
theorem State.drivenActive_excludes {s : State} {p : PairIx} (hc : s.complement p = true) :
    ¬(s.drivenActive (lineA p) = true ∧ s.drivenActive (lineB p) = true) := by
  have hm : (s.pair p).mode = .complement := beq_iff_eq.mp hc
  rw [State.drivenActive_of_complement (by rw [pairOf_lineA]; exact hm),
    State.drivenActive_of_complement (by rw [pairOf_lineB]; exact hm), pairOf_lineA, pairOf_lineB]
  have hne := lineA_ne_lineB p
  simp only [hne, hne.symm, decide_true, decide_false, Bool.true_and, Bool.false_and, Bool.or_false, Bool.false_or,
    beq_iff_eq]
  rintro ⟨ha, hb⟩
  rw [ha] at hb
  cases hb

end Sys2Proof.Machine

open Sys2Proof Sys2Proof.Machine

/-- Settles O55: the pairs are kept with the lines and the Cutoff Unit; a pair state drives at most one of its two pins active. -/
theorem everyStepKeepsComplementaryPairs : Obligations.EveryStepKeepsComplementaryPairs := by
  unfold Obligations.EveryStepKeepsComplementaryPairs
  refine ⟨fun s t hl hc hp hstep => (pairsSound_invariant.step ⟨⟨hl, hc⟩, hp⟩ hstep).2, ?_⟩
  intro s p hl _ hc hcut ⟨ha, hb⟩
  have hcutB : (s.line (lineB p)).drive ≠ .cut := (hl.2 p hc).2.1 ▸ hcut
  exact State.drivenActive_excludes hc
    ⟨State.drivenActive_of_electrical hcut ha, State.drivenActive_of_electrical hcutB hb⟩

end

section
/-! PROOF. Every step keeps each record on an output line on a DRIVEN line of its owner (R109, R110, R123). -/
namespace Sys2Proof.Machine

/-! ### Records removed -/

/-- No record meets the condition. -/
def State.Without (s : State) (p : ActionRecord → Bool) : Prop := ∀ n r, s.action n = some r → p r = false

/-- The condition looks at the owner and the target alone. -/
def ByTarget (p : ActionRecord → Bool) : Prop := ∀ x y : ActionRecord, x.owner = y.owner → x.target = y.target → p x = p y

theorem byTarget_onCutLine (s : State) : ByTarget s.onCutLine := fun x y _ ht => by simp only [State.onCutLine, ht]

theorem byTarget_revokes (m : Master) (lines : LineSet) (entries : EntrySet) : ByTarget (revokes m lines entries) :=
  fun x y ho ht => by simp only [revokes, ht, ho]

namespace State.Without

variable {s t : State} {p : ActionRecord → Bool}

theorem of_within (h : s.Without p) (hp : ByTarget p) (hw : s.RecordsWithin t) : t.Without p := fun n r hr => by
  obtain ⟨x, hx, ho, ht⟩ := hw n r hr
  exact (hp x r ho ht).symm.trans (h n x hx)

theorem of_countRecords (h : s.countRecords p = 0) : s.Without p := fun n r hr => by
  unfold State.countRecords countOf at h
  simpa [State.selects, hr] using List.countP_eq_zero.mp h n (List.mem_finRange n)

theorem cancelRecords (s : State) (p : ActionRecord → Bool) (reason : CancelReason) (t : Timestamp) :
    (s.cancelRecords p reason t).Without p := fun n r hr => by
  rw [State.cancelRecords_action] at hr
  split at hr
  · split at hr
    · cases hr
    · next hn => cases hr; simpa using hn
  · cases hr

end State.Without

/-- A hand-off that establishes a fact which the others keep, in whatever order they come. -/
theorem State.inAnyOrder_establishes {P Q : State → Prop} {s : State} {handOffs : List (State → State)}
    {g : State → State} (hg : g ∈ handOffs) (ha : ∀ a, P { s with arbiter := a })
    (keepsP : ∀ f ∈ handOffs, ∀ u, P u → P (f u)) (holds : ∀ u, P u → Q (g u))
    (keepsQ : ∀ f ∈ handOffs, ∀ u, P u → Q u → Q (f u)) : Q (s.inAnyOrder handOffs) := by
  obtain ⟨a, order, hp, ht⟩ := s.inAnyOrder_afterAll handOffs
  obtain ⟨before, after, rfl⟩ := List.append_of_mem (hp.mem_iff.mpr hg)
  have hmem {f : State → State} (hf : f ∈ before ++ g :: after) : f ∈ handOffs := hp.mem_iff.mp hf
  rw [ht, List.foldl_append, List.foldl_cons]
  have hbefore : P (before.foldl (fun u f => f u) { s with arbiter := a }) :=
    State.foldl_keeps before (fun f hf => keepsP f (hmem (by simp [hf]))) _ (ha a)
  refine (State.foldl_keeps (P := fun u => P u ∧ Q u) after (fun f hf u hu => ?_) _
    ⟨keepsP g hg _ hbefore, holds _ hbefore⟩).2
  have hf' := hmem (f := f) (by simp [hf])
  exact ⟨keepsP f hf' u hu.1, keepsQ f hf' u hu.1 hu.2⟩

/-- R110: a removal among hand-offs that add no record, left out if there is nothing to remove. -/
theorem State.inAnyOrder_removes {s u : State} {p : ActionRecord → Bool} (hp : ByTarget p) (reason : CancelReason)
    (t : Timestamp) (same : u.actions = s.actions) {rest : List (State → State)}
    (within : ∀ f ∈ rest, ∀ v : State, v.RecordsWithin (f v)) :
    (u.inAnyOrder ((if s.countRecords p = 0 then [] else [fun v => v.cancelRecords p reason t]) ++ rest)).Without p := by
  have hrest (f : State → State) (hf : f ∈ rest) (v : State) (hv : v.Without p) := hv.of_within hp (within f hf v)
  by_cases hc : s.countRecords p = 0
  · have hs : u.Without p := (State.Without.of_countRecords hc).of_within hp (.of_actions_eq same)
    rw [if_pos hc, List.nil_append]
    exact State.inAnyOrder_keeps (P := fun v => State.Without v p) (fun _ => hs) hrest
  · refine State.inAnyOrder_establishes (P := fun _ => True) (Q := fun v => State.Without v p) (g := fun v => v.cancelRecords p reason t)
      (List.mem_append_left _ (by rw [if_neg hc]; exact List.mem_singleton_self _)) (fun _ => trivial)
      (fun _ _ _ _ => trivial) (fun v _ => State.Without.cancelRecords v p reason t) fun f hf v _ hv => ?_
    rcases List.mem_append.mp hf with hf | hf
    · rw [if_neg hc] at hf
      rw [List.mem_singleton.mp hf]
      exact State.Without.cancelRecords v p reason t
    · exact hrest f hf v hv

theorem State.trip_without (s : State) (src : CutSource) (t : Timestamp) : (s.trip src t).Without s.onCutLine := by
  refine State.inAnyOrder_removes (byTarget_onCutLine s) _ _ (by simp) fun f hf v => ?_
  rw [List.mem_singleton.mp hf]
  exact .of_actions_eq

theorem State.writeRights_without (s : State) (c : RightsSettings) :
    (s.writeRights c).Without (revokes c.master (s.withdrawnLines c) (s.withdrawnEntries c)) := by
  refine State.inAnyOrder_removes (byTarget_revokes _ _ _) _ _ (by simp) fun f hf v => ?_
  split at hf
  · rw [List.mem_singleton.mp hf]
    exact .of_actions_eq
  · cases hf

/-! ### Changes of lines, pairs and records -/

/-- Level requests leave the drive states, the owners and the pair modes. -/
theorem State.requestTarget_lines (s : State) (r : ActionRecord) (q : LevelRequest) :
    (∀ l, ((s.requestTarget r q).line l).drive = (s.line l).drive ∧ ((s.requestTarget r q).line l).owner = (s.line l).owner) ∧
      ∀ p, (s.requestTarget r q).complement p = s.complement p := by
  have hover (p : PairIx) (side : Side) :
      (∀ l, ((s.handOver p side).line l).drive = (s.line l).drive ∧ ((s.handOver p side).line l).owner = (s.line l).owner) ∧
        ∀ k, (s.handOver p side).complement k = s.complement k := by
    refine ⟨fun l => ?_, State.outputsSafe.handOver_complement s p side⟩
    obtain ⟨a, e, -⟩ := State.outputsSafe.handOver_line s p side l
    rw [e]
    exact ⟨rfl, rfl⟩
  have same : (∀ l, (s.line l).drive = (s.line l).drive ∧ (s.line l).owner = (s.line l).owner) ∧
      ∀ p, s.complement p = s.complement p := ⟨fun _ => ⟨rfl, rfl⟩, fun _ => rfl⟩
  unfold State.requestTarget
  split
  · next l _ =>
    unfold State.requestLevel
    split
    · split
      · refine ⟨fun k => ?_, fun _ => rfl⟩
        rw [State.setLine_line]
        split
        · next hk => rw [hk]; exact ⟨rfl, rfl⟩
        · exact ⟨rfl, rfl⟩
      · unfold State.requestPair
        split
        · exact hover _ _
        · exact hover _ _
        · exact hover _ _
        · exact hover _ _
        · exact same
    · exact same
  · exact same
  · exact same

theorem State.complementB_congr {s t : State} (h : ∀ p, t.complement p = s.complement p) (l : OutLine) :
    t.complementB l = s.complementB l := by
  simp only [State.complementB, h]

theorem State.releaseLines_line (s : State) (lines : LineSet) (l : OutLine) :
    (s.releaseLines lines).line l = if lines.getLsbD l.val then (s.line l).released else s.line l := by
  rw [State.releaseLines, State.changeLines_line, State.clearPairs_line]

theorem State.releaseLines_complement (s : State) (lines : LineSet) (p : PairIx) :
    (s.releaseLines lines).complement p = s.complement p := by
  unfold State.releaseLines
  exact State.outputsSafe.clearPairs_complement s (fun l => lines.getLsbD l.val) p

namespace State.recordsSound

variable {s t : State}

/-- A change that adds no record, and leaves DRIVEN the lines that have one. -/
theorem of_within (h : s.recordsSound) (hw : s.RecordsWithin t)
    (hl : ∀ n r l, t.action n = some r → r.target = .output l → (s.line l).drive = .driven → (s.line l).owner = some r.owner →
      s.complementB l = false →
      (t.line l).drive = .driven ∧ (t.line l).owner = (s.line l).owner ∧ t.complementB l = false) : t.recordsSound := by
  intro n r l hr hout
  obtain ⟨x, hx, ho, ht⟩ := hw n r hr
  obtain ⟨hdrive, howner, hfirst⟩ := h n x l hx (ht.trans hout)
  rw [ho] at howner
  obtain ⟨gd, go, gf⟩ := hl n r l hr hout hdrive howner hfirst
  exact ⟨gd, go.trans howner, gf⟩

/-- A change that adds no record, and leaves every DRIVEN line. -/
theorem of_driven (h : s.recordsSound) (hw : s.RecordsWithin t)
    (hl : ∀ l, (s.line l).drive = .driven → (t.line l).drive = .driven ∧ (t.line l).owner = (s.line l).owner)
    (hm : ∀ p, t.complement p = s.complement p) : t.recordsSound :=
  h.of_within hw fun _ _ l _ _ hd _ hf => ⟨(hl l hd).1, (hl l hd).2, (State.complementB_congr hm l).trans hf⟩

/-- Lines that are not DRIVEN have no records. -/
theorem changeIdle (h : s.recordsSound) {on : OutLine → Bool} (f : OutputLine → OutputLine)
    (idle : ∀ l, on l = true → (s.line l).drive ≠ .driven) : (s.changeLines on f).recordsSound := by
  refine h.of_driven (.of_actions_eq rfl) (fun l hd => ?_) fun _ => rfl
  rw [State.changeLines_line, if_neg fun ho => idle l ho hd]
  exact ⟨hd, rfl⟩

theorem stand (h : s.recordsSound) (g : s.OutputsStand t) : t.recordsSound :=
  h.of_driven g.records (fun l hd => by rw [g.line]; exact ⟨hd, rfl⟩) g.complement

theorem requestTarget (h : s.recordsSound) (r : ActionRecord) (q : LevelRequest) : (s.requestTarget r q).recordsSound := by
  obtain ⟨lines, modes⟩ := s.requestTarget_lines r q
  refine h.of_driven (fun n x hx => ⟨x, ?_, rfl, rfl⟩) (fun l hd => ⟨(lines l).1.trans hd, (lines l).2⟩) modes
  rwa [State.RecordsWithin.requestTarget_action] at hx

theorem expireDeadTime (h : s.recordsSound) (p : PairIx) : (s.expireDeadTime p).recordsSound := by
  unfold State.expireDeadTime
  split
  · refine h.of_driven (.of_actions_eq rfl) (fun _ hd => ⟨hd, rfl⟩) fun k => ?_
    rw [State.complement, State.setPair_pair]
    split
    · next hk =>
      subst hk
      unfold State.complement Pair.expire
      split <;> rfl
    · rfl
  · exact h

/-- R110, R137: the records of the lines a trip cuts go with it. -/
theorem trip (h : s.recordsSound) (src : CutSource) (t : Timestamp) : (s.trip src t).recordsSound := by
  have g := s.trip_stand src t
  refine h.of_within (.trip s src t) fun n r l hr hout hd _ hf => ?_
  have hcut : s.cuts l = false := by simpa [State.onCutLine, hout] using s.trip_without src t n r hr
  have hline : (s.trip src t).line l = s.line l := by
    rw [g.line, State.setCutoff_line, State.cutLines, State.changeLines_line, hcut, State.clearPairs_line]
    rfl
  refine ⟨hline ▸ hd, by rw [hline], (State.complementB_congr (fun p => ?_) l).trans hf⟩
  exact (g.complement p).trans (State.outputsSafe.clearPairs_complement s s.cuts p)

/-- R109: what ACT_SUBMIT checks of its target. -/
theorem targetRefusal_none {m : Master} {l : OutLine} (h : s.targetRefusal m (.output l) = none) :
    (s.line l).drive = .driven ∧ (s.line l).owner = some m ∧ s.complementB l = false := by
  simp only [State.targetRefusal] at h
  split_ifs at h with hb ho
  rw [not_not] at ho
  cases hd : (s.line l).drive <;> simp [hd] at h
  exact ⟨rfl, ho, by simpa using hb⟩

theorem submit (h : s.recordsSound) {n : Slot} {r : ActionRecord} (passed : s.targetRefusal r.owner r.target = none) :
    (s.setAction n (some r)).recordsSound := by
  intro k x l hx hout
  rw [State.setAction_action] at hx
  split at hx
  · cases hx
    rw [hout] at passed
    exact targetRefusal_none passed
  · exact h k x l hx hout

theorem configureLine (h : s.recordsSound) (l : OutLine) (c : LineSettings) : (s.configureLine l c).recordsSound := by
  refine h.of_driven (.of_actions_eq rfl) (fun k hd => ?_) fun _ => rfl
  obtain ⟨ho, hdrive, -⟩ := State.outputsSafe.configureLine_line s l c k
  exact ⟨hdrive.trans hd, ho⟩

theorem enableLine (h : s.recordsSound) (hs : s.linesSound) {l : OutLine} (hd : (s.line l).drive = .disabled) :
    (s.enableLine l).recordsSound := by
  have hdriven : (s.changeLines (s.together l) fun x => { x with drive := .driven, active := false }).recordsSound :=
    h.changeIdle _ fun k hk => by simp [(hs.alike_together hk).2.1, hd]
  unfold State.enableLine
  dsimp only
  split
  · refine hdriven.of_driven (.of_actions_eq ?_) (fun k hk => ?_)
      (State.outputsSafe.handOver_complement _ (pairOf l) .b)
    · rw [State.handOver_eq]
      rfl
    · obtain ⟨a, e, -⟩ := State.outputsSafe.handOver_line
        (s.changeLines (s.together l) fun x => { x with drive := .driven, active := false }) (pairOf l) .b k
      rw [e]
      exact ⟨hk, rfl⟩
  · exact hdriven

/-- R121: a line is stopped when no record targets it; in a COMPLEMENT pair none can target the B line. -/
theorem disableLine (h : s.recordsSound) {l : OutLine} (first : s.complementB l = false) (unused : s.lineInUse l = false) :
    (s.disableLine l).recordsSound := by
  have hmode := State.outputsSafe.clearPairs_complement s (s.together l)
  refine h.of_within (.of_actions_eq rfl) fun n r k hr hout hd _ hf => ?_
  have hk : s.together l k = false := by
    rw [Bool.eq_false_iff]
    intro ht
    rw [State.together_eq, Bool.or_eq_true, Bool.and_eq_true, beq_iff_eq, beq_iff_eq] at ht
    have hkl : k = l := by
      rcases ht with rfl | ⟨hc, hp⟩
      · rfl
      · have hside (j : OutLine) (hj : s.complementB j = false) (hjp : pairOf j = pairOf l) : j = lineA (pairOf l) := by
          rcases line_of_pair j with e | e
          · rw [e, hjp]
          · rw [State.complementB, hjp, hc, e, sideOf_lineB] at hj
            cases hj
        exact (hside k hf hp).trans (hside l first rfl).symm
    have hused : s.lineInUse l = true := State.lineInUse_iff.mpr ⟨n, r, hr, hkl ▸ hout⟩
    rw [unused] at hused
    cases hused
  have hline : (s.disableLine l).line k = s.line k := by
    rw [State.disableLine, State.changeLines_line, hk, State.clearPairs_line]
    rfl
  exact ⟨hline ▸ hd, by rw [hline], (State.complementB_congr (s := s) (fun p => hmode p) k).trans hf⟩

theorem configurePair (h : s.recordsSound) {p : PairIx} (ha : (s.line (lineA p)).drive = .disabled)
    (hb : (s.line (lineB p)).drive = .disabled) (mode : PairMode) (d : Nat) :
    (s.setPair p { s.pair p with mode := mode, deadTime := d }).recordsSound := by
  refine h.of_within (.of_actions_eq rfl) fun _ _ l _ _ hd _ hf => ⟨hd, rfl, ?_⟩
  have hp : pairOf l ≠ p := by
    rintro rfl
    rcases line_of_pair l with hl | hl
    · rw [← hl, hd] at ha
      cases ha
    · rw [← hl, hd] at hb
      cases hb
  rw [State.complementB, State.complement, State.setPair_pair, if_neg hp]
  exact hf

/-- R110, R131: lines released, when no record that stays is on one of them. -/
theorem released (h : s.recordsSound) (hw : s.RecordsWithin t) {lines : LineSet}
    (hl : ∀ l, t.line l = if lines.getLsbD l.val then (s.line l).released else s.line l)
    (hm : ∀ p, t.complement p = s.complement p)
    (gone : ∀ n r l, t.action n = some r → r.target = .output l → (s.line l).owner = some r.owner →
      lines.getLsbD l.val = false) : t.recordsSound :=
  h.of_within hw fun n r l hr hout hd ho hf => by
    rw [hl, gone n r l hr hout ho]
    exact ⟨hd, rfl, (State.complementB_congr hm l).trans hf⟩

theorem tearDown (h : s.recordsSound) (hs : s.linesSound) (m : Master) : (s.tearDown m).recordsSound := by
  have haction (n : Slot) : (s.tearDown m).action n = (s.dropRecords (ActionRecord.ownedBy m)).action n := rfl
  refine h.released (lines := s.wholePairs (s.ownedLines m))
    (fun n r hr => State.RecordsWithin.dropRecords s (ActionRecord.ownedBy m) n r (haction n ▸ hr)) (fun l => ?_)
    (fun p => ?_) fun n r l hr _ ho => ?_
  · rw [State.tearDown, State.releaseLines_line]
    rfl
  · rw [State.tearDown, State.releaseLines_complement]
    rfl
  · have hother : r.owner ≠ m := by
      rw [haction, State.dropRecords_action] at hr
      split at hr
      · split at hr
        · cases hr
        · next hn => cases hr; simpa [ActionRecord.ownedBy] using hn
      · cases hr
    have hnot (k : OutLine) (hk : (s.line k).owner = (s.line l).owner) : (s.ownedLines m).getLsbD k.val = false := by
      rw [State.ownedLines, setOf_getLsbD, hk, ho]
      simpa using hother
    rw [State.wholePairs_getLsbD, hnot l rfl, Bool.false_or]
    cases hc : s.complement (pairOf l)
    · rfl
    · have halike := (hs.alike_lead l).1
      have hlead : s.lead l = lineA (pairOf l) := by simp [State.lead, hc]
      rw [hlead] at halike
      rw [hnot _ halike, hnot _ ((hs.2 _ hc).1.symm.trans halike)]
      rfl

/-- R110, R150: the records on withdrawn lines go with them. -/
theorem writeRights (h : s.recordsSound) (c : RightsSettings) : (s.writeRights c).recordsSound := by
  obtain ⟨hlines, hpairs⟩ := State.writeRights_keeps
    (P := fun u => u.lines = ((s.setRight c.master c.rights).releaseLines (s.withdrawnLines c)).lines ∧
      u.pairs = ((s.setRight c.master c.rights).releaseLines (s.withdrawnLines c)).pairs)
    (fun _ _ g hu => ⟨g.lines.trans hu.1, g.pairs.trans hu.2⟩) (fun _ _ hu => hu) s c ⟨rfl, rfl⟩
  refine h.released (lines := s.withdrawnLines c) (.writeRights s c) (fun l => ?_) (fun p => ?_) fun n r l hr hout _ => ?_
  · have hl := State.releaseLines_line (s.setRight c.master c.rights) (s.withdrawnLines c) l
    rw [State.line, ← hlines] at hl
    exact hl
  · have hp := State.releaseLines_complement (s.setRight c.master c.rights) (s.withdrawnLines c) p
    rw [State.complement, State.pair, ← hpairs] at hp
    exact hp
  · simpa [revokes, hout] using s.writeRights_without c n r hr

end State.recordsSound

/-- The records are kept with the lines and the Cutoff Unit by every operation on them. -/
theorem recordsSound_invariant : OutputInvariant fun s => s.outputsSafe ∧ s.recordsSound where
  reset := ⟨outputsSafe_invariant.reset, State.reset_recordsSound⟩
  stand _ _ g h := ⟨outputsSafe_invariant.stand _ _ g h.1, h.2.stand g⟩
  requestTarget _ r q h := ⟨h.1.requestTarget r q, h.2.requestTarget r q⟩
  expireDeadTime _ p h := ⟨h.1.expireDeadTime p, h.2.expireDeadTime p⟩
  tickDeadTimes _ h :=
    ⟨h.1.tickDeadTimes, h.2.of_driven (.of_actions_eq rfl) (fun _ hd => ⟨hd, rfl⟩)
      fun p => by rw [State.complement, State.tickDeadTimes_pair]; rfl⟩
  trip s src t ha h := ⟨outputsSafe_invariant.trip s src t ha h.1, h.2.trip src t⟩
  see _ src _ h := ⟨h.1.see src, h.2⟩
  rearm _ hm h := ⟨h.1.rearm hm, h.2⟩
  submit s n r passed h := ⟨outputsSafe_invariant.submit s n r passed h.1, h.2.submit passed⟩
  claim s m l free h :=
    ⟨h.1.claim m l, h.2.changeIdle _ fun k hk => by simp [(h.1.1.alike_together hk).2.1, free]⟩
  release s l undriven h :=
    ⟨outputsSafe_invariant.release s l undriven h.1, h.2.changeIdle _ fun k hk => by
      rw [(h.1.1.alike_together hk).2.1]
      exact undriven⟩
  configureLine _ l c disabled agrees h := ⟨h.1.configureLine c disabled, h.2.configureLine l c⟩
  enable _ l _ disabled safe h := ⟨h.1.enableLine disabled safe, h.2.enableLine h.1.1 disabled⟩
  disable _ l first driven unused h := ⟨h.1.disableLine driven, h.2.disableLine first unused⟩
  configurePair _ _ _ mode d passed h :=
    have hd := (State.outputsSafe.pairRefusal_none passed).2.1
    ⟨h.1.configurePair d passed, h.2.configurePair hd.1 hd.2 mode d⟩
  restore s m lines passed h :=
    ⟨h.1.restore passed, h.2.changeIdle _ fun l hl => by simp [State.outputsSafe.restored_cut h.1.1 passed l hl]⟩
  tearDown s m h := ⟨outputsSafe_invariant.tearDown s m h.1, h.2.tearDown h.1.1 m⟩
  writeRights s c h := ⟨outputsSafe_invariant.writeRights s c h.1, h.2.writeRights c⟩

end Sys2Proof.Machine

open Sys2Proof Sys2Proof.Machine

/-- Settles O56: the records are kept with the lines and the Cutoff Unit. -/
theorem everyStepKeepsRecordsOnDrivenLines : Obligations.EveryStepKeepsRecordsOnDrivenLines := by
  unfold Obligations.EveryStepKeepsRecordsOnDrivenLines
  exact fun _ _ hl hc hr hstep => (recordsSound_invariant.step ⟨⟨hl, hc⟩, hr⟩ hstep).2

end

section
/-! PROOF. Every step keeps the awaiting sets and the entries' status (R36, R37, R62). -/
namespace Sys2Proof.Machine

/-! ### One entry, against what is around it -/

/-- The entry fits masters that may be awaited, masters that can be reached, its trigger and its line's asserted condition. -/
structure Entry.Fits (x : Entry) (present reach : Master → Bool) (level asserted : Bool) : Prop where
  awaited : ∀ m : Master, x.awaiting.getLsbD m.val = true → x.destinations.getLsbD m.val = true ∧ present m = true
  served : x.status = .inService ↔ x.awaiting ≠ 0#4
  leveled : x.awaiting ≠ 0#4 → level = true
  timed : x.timer.isSome = true → x.awaiting ≠ 0#4
  held : x.status = .held →
    asserted = true ∧ x.masked = false ∧ ∀ m : Master, (x.destinations.getLsbD m.val && reach m) = false

/-- A master is not DETACHED. -/
def State.present (s : State) (m : Master) : Bool := decide (s.attachment m ≠ .detached)

/-- A master is ATTACHED. -/
def State.reachable (s : State) (m : Master) : Bool := s.attachment m == .attached

/-- An entry fits the state it is in. -/
def State.fitsAt (s : State) (e : EntryIx) : Prop :=
  (s.entry e).Fits s.present s.reachable (s.levelEntry e) (s.entryAsserted e)

theorem State.entriesSound_iff {s : State} : s.entriesSound ↔ ∀ e, s.fitsAt e := by
  constructor
  · intro h e
    obtain ⟨awaited, served, leveled, timed, held⟩ := h e
    exact ⟨fun m hm => ⟨(awaited m hm).1, decide_eq_true (awaited m hm).2⟩, served, leveled, timed, held⟩
  · intro h e
    obtain ⟨awaited, served, leveled, timed, held⟩ := h e
    exact ⟨fun m hm => ⟨(awaited m hm).1, of_decide_eq_true (awaited m hm).2⟩, served, leveled, timed, held⟩

/-- Bounds that allow at least what the state does at an entry. -/
structure State.Allows (s : State) (e : EntryIx) (present reach : Master → Bool) (asserted : Bool) : Prop where
  present : ∀ m, s.present m = true → present m = true
  reach : ∀ m, reach m = true → s.reachable m = true
  asserted : s.entryAsserted e = true → asserted = true

theorem State.Allows.self (s : State) (e : EntryIx) : s.Allows e s.present s.reachable (s.entryAsserted e) :=
  ⟨fun _ h => h, fun _ h => h, fun h => h⟩

/-- R34, R22: an asserted line is in LEVEL mode. -/
theorem State.levelEntry_of_asserted {s : State} {e : EntryIx} (h : s.entryAsserted e = true) : s.levelEntry e = true := by
  unfold State.entryAsserted at h
  unfold State.levelEntry
  split at h
  · rw [CaptureLine.asserted, Bool.and_eq_true] at h
    exact h.1
  · cases h

theorem State.levelEntry_congr {s t : State} {e : EntryIx} (h : ∀ n, entryLine e = some n → (t.capture n).mode = (s.capture n).mode) :
    t.levelEntry e = s.levelEntry e := by
  unfold State.levelEntry
  cases hn : entryLine e with
  | none => rfl
  | some n => simp only [h n hn]

theorem State.entryAsserted_congr {s t : State} {e : EntryIx}
    (h : ∀ n, entryLine e = some n → (t.capture n).asserted = (s.capture n).asserted) : t.entryAsserted e = s.entryAsserted e := by
  unfold State.entryAsserted
  cases hn : entryLine e with
  | none => rfl
  | some n => simp only [h n hn]

namespace Entry.Fits

variable {x : Entry} {present reach : Master → Bool} {level asserted : Bool}

/-- Wider bounds. -/
theorem mono (h : x.Fits present reach level asserted) {present' reach' : Master → Bool} {asserted' : Bool}
    (hp : ∀ m, present m = true → present' m = true) (hr : ∀ m, reach' m = true → reach m = true)
    (ha : asserted = true → asserted' = true) : x.Fits present' reach' level asserted' where
  awaited m hm := ⟨(h.awaited m hm).1, hp m (h.awaited m hm).2⟩
  served := h.served
  leveled := h.leveled
  timed := h.timed
  held hh := by
    obtain ⟨hass, hmask, hdest⟩ := h.held hh
    refine ⟨ha hass, hmask, fun m => ?_⟩
    rw [Bool.eq_false_iff]
    intro hm
    rw [Bool.and_eq_true] at hm
    have hno := hdest m
    rw [hm.1, hr m hm.2] at hno
    cases hno

/-- An entry that awaits no master and is not HELD fits anything, if its timer is stopped. -/
theorem of_idle (ha : x.awaiting = 0#4) (hs : x.status = .idle) (ht : x.timer = none) : x.Fits present reach level asserted := by
  refine ⟨fun m hm => ?_, ?_, ?_, ?_, ?_⟩
  · rw [ha] at hm
    simp at hm
  · simp [ha, hs]
  · simp [ha]
  · simp [ht]
  · simp [hs]

theorem timer_none (h : x.Fits present reach level asserted) (ha : x.awaiting = 0#4) : x.timer = none := by
  cases ht : x.timer with
  | none => rfl
  | some t => exact absurd ha (h.timed (by simp [ht]))

theorem rotated (h : x.Fits present reach level asserted) (r : Master) :
    Entry.Fits { x with rotation := r } present reach level asserted :=
  ⟨h.awaited, h.served, h.leveled, h.timed, h.held⟩

/-- R58: a master leaves an awaiting set that keeps another. -/
theorem leave (h : x.Fits present reach level asserted) (m : Master) (hrest : without x.awaiting m.val ≠ 0#4) :
    Entry.Fits { x with awaiting := without x.awaiting m.val } (fun k => present k && k != m) reach level asserted := by
  have hne : x.awaiting ≠ 0#4 := fun h0 => hrest (by simp [h0, without])
  have hstatus := h.served.mpr hne
  refine ⟨fun k hk => ?_, by simp [hstatus, hrest], fun _ => h.leveled hne, fun _ => hrest, fun hh => ?_⟩
  · rw [without_getLsbD, Bool.and_eq_true, decide_eq_true_eq] at hk
    obtain ⟨hd, hp⟩ := h.awaited k hk.1
    have hkm : k ≠ m := fun e => hk.2 (congrArg Fin.val e)
    exact ⟨hd, by simp [hp, hkm]⟩
  · rw [hstatus] at hh
    cases hh

end Entry.Fits

/-! ### What leaves the entries, up to their rotation pointers -/

/-- Attachments, triggers and asserted conditions stand, and the entries but for their rotation pointers. -/
structure State.EntriesStand (s t : State) : Prop where
  attachment : ∀ m, t.attachment m = s.attachment m
  lines : ∀ n, (t.capture n).mode = (s.capture n).mode ∧ (t.capture n).asserted = (s.capture n).asserted
  entries : ∀ e, ∃ r, t.entry e = { s.entry e with rotation := r }

namespace State.EntriesStand

variable {s t u : State}

theorem of_captures (attachment : ∀ m, t.attachment m = s.attachment m)
    (lines : ∀ n, (t.capture n).mode = (s.capture n).mode ∧ (t.capture n).asserted = (s.capture n).asserted)
    (entries : t.entries = s.entries) : s.EntriesStand t :=
  ⟨attachment, lines, fun e => ⟨(s.entry e).rotation, by simp only [State.entry, entries]⟩⟩

theorem of_eq (attachment : ∀ m, t.attachment m = s.attachment m := by simp)
    (captures : t.captures = s.captures := by simp) (entries : t.entries = s.entries := by simp) : s.EntriesStand t :=
  of_captures attachment (fun n => by simp only [State.capture, captures, and_self]) entries

theorem refl (s : State) : s.EntriesStand s := .of_eq (fun _ => rfl) rfl rfl

theorem trans (h : s.EntriesStand t) (g : t.EntriesStand u) : s.EntriesStand u where
  attachment m := (g.attachment m).trans (h.attachment m)
  lines n := ⟨(g.lines n).1.trans (h.lines n).1, (g.lines n).2.trans (h.lines n).2⟩
  entries e := by
    obtain ⟨r, hr⟩ := h.entries e
    obtain ⟨q, hq⟩ := g.entries e
    exact ⟨q, by rw [hq, hr]⟩

theorem levelEntry (h : s.EntriesStand t) (e : EntryIx) : t.levelEntry e = s.levelEntry e :=
  State.levelEntry_congr fun n _ => (h.lines n).1

theorem entryAsserted (h : s.EntriesStand t) (e : EntryIx) : t.entryAsserted e = s.entryAsserted e :=
  State.entryAsserted_congr fun n _ => (h.lines n).2

theorem inAnyOrder {handOffs : List (State → State)} (h : ∀ f ∈ handOffs, ∀ u : State, u.EntriesStand (f u)) :
    s.EntriesStand (s.inAnyOrder handOffs) :=
  State.inAnyOrder_keeps (P := fun u => s.EntriesStand u) (fun _ => .of_eq (fun _ => rfl) rfl rfl)
    fun f hf u hu => hu.trans (h f hf u)

theorem edgeEvent (s : State) (e : EntryIx) (t : Timestamp) (b : NoticeBody) : s.EntriesStand (s.edgeEvent e t b) where
  attachment m := by simp
  lines n := by simp [State.capture]
  entries k := by
    rw [State.edgeEvent_entry]
    split
    · next h => exact ⟨_, by rw [h.1]⟩
    · exact ⟨(s.entry k).rotation, rfl⟩

/-! #### The Cutoff Unit -/

theorem cutoffChange (s : State) (c : CutState) (r : Option Trip) (t : Timestamp) : s.EntriesStand (s.cutoffChange c r t) :=
  edgeEvent s _ _ _

theorem trip (s : State) (src : CutSource) (t : Timestamp) : s.EntriesStand (s.trip src t) := by
  refine trans (of_eq (t := s.cutLines.setCutoff _)) (inAnyOrder fun f hf u => ?_)
  rcases List.mem_append.mp hf with hf | hf
  · obtain ⟨-, hf⟩ := mem_unless.mp hf
    rw [List.mem_singleton.mp hf]
    exact of_eq
  · rw [List.mem_singleton.mp hf]
    exact cutoffChange u _ _ _

theorem sourceAsserts (s : State) (src : CutSource) (t : Timestamp) : s.EntriesStand (s.sourceAsserts src t) := by
  unfold State.sourceAsserts
  split
  · exact trip s src t
  · exact of_eq

theorem rearmCheck (s : State) (t : Timestamp) : s.EntriesStand (s.rearmCheck t) := by
  unfold State.rearmCheck
  split
  · exact trans (of_eq (t := s.setCutoff _)) (cutoffChange _ _ _ _)
  · exact refl s

theorem momentary (s : State) (src : CutSource) (t : Timestamp) : s.EntriesStand (s.momentary src t) :=
  (sourceAsserts s src t).trans (rearmCheck _ t)

theorem joinSource (s : State) (src : CutSource) (t : Timestamp) : s.EntriesStand (s.joinSource src t) :=
  trans (of_eq (t := s.setCutoff _)) (sourceAsserts _ src t)

theorem leaveSource (s : State) (src : CutSource) (t : Timestamp) : s.EntriesStand (s.leaveSource src t) :=
  trans (of_eq (t := s.setCutoff _)) (rearmCheck _ t)

theorem pinChanged (s : State) (before : Bool) (t : Timestamp) : s.EntriesStand (s.pinChanged before t) := by
  unfold State.pinChanged
  split
  · exact joinSource s _ t
  · exact leaveSource s _ t
  · exact refl s
  · exact refl s

/-! #### The Action Schedule, the Timebase and the rights -/

theorem openGate (s : State) (n : CapLine) : s.EntriesStand (s.setCapture n (s.capture n).openGate) := by
  refine of_captures (fun _ => rfl) (fun k => ?_) rfl
  rw [State.setCapture_capture]
  split
  · next h => rw [h]; exact ⟨rfl, rfl⟩
  · exact ⟨rfl, rfl⟩

theorem openTarget (s : State) (r : ActionRecord) : s.EntriesStand (s.openTarget r) := by
  unfold State.openTarget
  split
  · exact openGate s _
  · exact refl s
  · exact refl s

theorem fire (s : State) (n : Slot) (r : ActionRecord) (t : Timestamp) : s.EntriesStand (s.fire n r t) := by
  unfold State.fire
  split
  · exact of_eq
  · exact of_eq
  · exact of_eq
  · exact (openTarget s r).trans of_eq
  · exact of_eq
  · exact of_eq

theorem takeFire (s : State) (n : Slot) : s.EntriesStand (s.takeFire n) := by
  unfold State.takeFire
  split
  · split
    · exact fire s n _ _
    · exact refl s
  · exact refl s

theorem settle (s : State) : s.EntriesStand s.settle := by
  have hfold {β : Type} {f : State → β → State} (l : List β) (h : ∀ u b, State.EntriesStand u (f u b)) (v : State) :
      v.EntriesStand (l.foldl f v) :=
    List.foldlRecOn (motive := fun u => State.EntriesStand v u) _ _ (refl v) fun u hu b _ => hu.trans (h u b)
  rw [State.settle_eq_takeAll]
  refine trans (trans (hfold _ (fun u p => ?_) s) (hfold _ (fun u n => ?_) _)) (hfold _ (fun u n => takeFire u n) _)
  · exact of_eq
  · exact of_eq

theorem resync (s : State) : s.EntriesStand s.resync :=
  trans (of_eq (t := (s.setTimebase s.timebase.reload).rebase _ _)) (edgeEvent _ _ _ _)

theorem sampleSync (s : State) (x : Level) : s.EntriesStand (s.sampleSync x) := by
  have hset : s.EntriesStand { s.setTimebase { s.timebase with syncSample := x } with syncPin := x } :=
    of_eq (fun _ => rfl) rfl rfl
  unfold State.sampleSync
  dsimp only
  split
  · exact hset.trans (resync _)
  · exact hset

theorem tickDeadTimes (s : State) : s.EntriesStand s.tickDeadTimes := of_eq (fun _ => rfl) rfl rfl

theorem tick (s : State) : s.EntriesStand s.tick := by
  have hadvance : s.EntriesStand (s.settle.setTimebase s.settle.timebase.advance) := (settle s).trans of_eq
  unfold State.tick
  dsimp only
  refine trans ?_ (tickDeadTimes _)
  split
  · exact hadvance.trans (edgeEvent _ _ _ _)
  · exact hadvance

theorem writeRights (s : State) (c : RightsSettings) : s.EntriesStand (s.writeRights c) := by
  refine trans (of_eq (t := (s.setRight _ _).releaseLines _)) (inAnyOrder fun f hf u => ?_)
  rcases List.mem_append.mp hf with hf | hf
  · obtain ⟨-, hf⟩ := mem_unless.mp hf
    rw [List.mem_singleton.mp hf]
    exact of_eq
  · split at hf
    · rw [List.mem_singleton.mp hf]; exact rearmCheck u _
    · cases hf

end State.EntriesStand

/-! ### What keeps the entries that fit -/

/-- Attachments, triggers, asserted conditions and masks stand, and an entry that fits goes on fitting, within whatever bounds the
state allows. -/
structure State.Steers (s t : State) : Prop where
  attachment : ∀ m, t.attachment m = s.attachment m
  lines : ∀ n, (t.capture n).mode = (s.capture n).mode ∧ (t.capture n).asserted = (s.capture n).asserted
  masked : ∀ e, (t.entry e).masked = (s.entry e).masked
  fits : ∀ e present reach asserted, s.Allows e present reach asserted →
    (s.entry e).Fits present reach (s.levelEntry e) asserted → (t.entry e).Fits present reach (s.levelEntry e) asserted

/-- R44: the entry after a delivery attempt. -/
theorem State.attempt_fits {s : State} {e : EntryIx} (ha : s.entryAsserted e = true) (hm : (s.entry e).masked = false)
    (t : Timestamp) {present reach : Master → Bool} {asserted : Bool} (allow : s.Allows e present reach asserted) :
    ((s.attempt e t).entry e).Fits present reach (s.levelEntry e) asserted := by
  rw [State.attempt_entry, if_pos rfl]
  split
  · next hnone =>
    refine ⟨fun m h => by simp at h, by simp, by simp, by simp, fun _ => ⟨allow.asserted ha, hm, fun m => ?_⟩⟩
    have hno := State.choose_empty.mp hnone m
    rw [State.deliverable, Bool.and_eq_false_iff] at hno
    rw [Bool.and_eq_false_iff]
    refine hno.imp id fun h => ?_
    rw [Bool.eq_false_iff]
    intro hr
    have hreach : (s.attachment m == .attached) = true := allow.reach m hr
    rw [hreach] at h
    cases h
  · next hsome =>
    refine ⟨fun m h => ?_, by simp [hsome], fun _ => State.levelEntry_of_asserted ha, fun _ => hsome, by simp⟩
    obtain ⟨hd, hatt⟩ := (State.deliverable_iff s e m).mp (State.choose_deliverable h)
    exact ⟨hd, allow.present m (by simp [State.present, hatt])⟩

/-- R60: the entry after its awaiting set has become empty. -/
theorem State.resample_fits (s : State) (e : EntryIx) (t : Timestamp) {present reach : Master → Bool} {asserted : Bool}
    (allow : s.Allows e present reach asserted) :
    ((s.resample e t).entry e).Fits present reach (s.levelEntry e) asserted := by
  unfold State.resample
  dsimp only
  split
  · next h =>
    rw [Bool.and_eq_true, Bool.not_eq_true'] at h
    exact State.attempt_fits (s := s.setEntry e { s.entry e with awaiting := 0#4, timer := none, status := .idle }) h.2
      (by simp [h.1]) t ⟨allow.present, allow.reach, allow.asserted⟩
  · rw [State.setEntry_entry, if_pos rfl]
    exact .of_idle rfl rfl rfl

/-- R58, R71: an entry that may have awaited the leaving master. -/
theorem State.leaveAwaiting_fits {s : State} {e : EntryIx} {m : Master} {present reach : Master → Bool} {asserted : Bool}
    (allow : s.Allows e present reach asserted)
    (h : (s.entry e).Fits (fun k => present k || k == m) reach (s.levelEntry e) asserted) (t : Timestamp) :
    ((s.leaveAwaiting m t e).entry e).Fits present reach (s.levelEntry e) asserted := by
  unfold State.leaveAwaiting
  dsimp only
  split
  · exact s.resample_fits e t allow
  · next hrest =>
    rw [State.setEntry_entry, if_pos rfl]
    refine (h.leave m hrest).mono (fun k hk => ?_) (fun _ hr => hr) fun ha => ha
    rw [Bool.and_eq_true, Bool.or_eq_true] at hk
    exact hk.1.resolve_right (by simpa using hk.2)

/-- R46: an entry that may have been HELD for an asserted line. -/
theorem State.deassertion_fits {s : State} {e : EntryIx} {present reach : Master → Bool} {asserted : Bool}
    (h : (s.entry e).Fits present reach (s.levelEntry e) true) :
    ((s.deassertion e).entry e).Fits present reach (s.levelEntry e) asserted := by
  unfold State.deassertion
  split
  · next hs =>
    rw [State.setEntry_entry, if_pos rfl]
    have ha : (s.entry e).awaiting = 0#4 := by
      by_contra hne
      rw [h.served.mpr hne] at hs
      cases hs
    exact .of_idle ha rfl (h.timer_none ha)
  · next hs => exact ⟨h.awaited, h.served, h.leveled, h.timed, fun hh => absurd hh hs⟩

theorem State.attempt_other (s : State) {e k : EntryIx} (t : Timestamp) (h : k ≠ e) : (s.attempt e t).entry k = s.entry k := by
  rw [State.attempt_entry, if_neg h]

theorem State.attempt_masked (s : State) (e k : EntryIx) (t : Timestamp) :
    ((s.attempt e t).entry k).masked = (s.entry k).masked := by
  rw [State.attempt_entry]
  split_ifs with h <;> simp [h]

theorem State.resample_other (s : State) {e k : EntryIx} (t : Timestamp) (h : k ≠ e) :
    (s.resample e t).entry k = s.entry k := by
  unfold State.resample
  dsimp only
  split
  · rw [State.attempt_other _ t h, State.setEntry_entry, if_neg h]
  · rw [State.setEntry_entry, if_neg h]

theorem State.resample_masked (s : State) (e k : EntryIx) (t : Timestamp) :
    ((s.resample e t).entry k).masked = (s.entry k).masked := by
  unfold State.resample
  dsimp only
  split
  · rw [State.attempt_masked, State.setEntry_entry]
    split_ifs with h <;> simp [h]
  · rw [State.setEntry_entry]
    split_ifs with h <;> simp [h]

namespace State.Steers

variable {s t u : State}

theorem of_stand (h : s.EntriesStand t) : s.Steers t where
  attachment := h.attachment
  lines := h.lines
  masked e := by
    obtain ⟨r, hr⟩ := h.entries e
    rw [hr]
  fits e _ _ _ _ hf := by
    obtain ⟨r, hr⟩ := h.entries e
    rw [hr]
    exact hf.rotated r

theorem refl (s : State) : s.Steers s := .of_stand (.refl s)

theorem present (h : s.Steers t) : t.present = s.present := funext fun m => by simp only [State.present, h.attachment]
theorem reachable (h : s.Steers t) : t.reachable = s.reachable := funext fun m => by simp only [State.reachable, h.attachment]
theorem levelEntry (h : s.Steers t) (e : EntryIx) : t.levelEntry e = s.levelEntry e :=
  State.levelEntry_congr fun n _ => (h.lines n).1
theorem entryAsserted (h : s.Steers t) (e : EntryIx) : t.entryAsserted e = s.entryAsserted e :=
  State.entryAsserted_congr fun n _ => (h.lines n).2

theorem allows (h : s.Steers t) {e : EntryIx} {present reach : Master → Bool} {asserted : Bool}
    (allow : s.Allows e present reach asserted) : t.Allows e present reach asserted :=
  ⟨fun m hm => allow.present m (h.present ▸ hm), fun m hm => h.reachable ▸ allow.reach m hm,
    fun ha => allow.asserted (h.entryAsserted e ▸ ha)⟩

theorem trans (h : s.Steers t) (g : t.Steers u) : s.Steers u where
  attachment m := (g.attachment m).trans (h.attachment m)
  lines n := ⟨(g.lines n).1.trans (h.lines n).1, (g.lines n).2.trans (h.lines n).2⟩
  masked e := (g.masked e).trans (h.masked e)
  fits e p r a allow hf := by
    have ht := g.fits e p r a (h.allows allow)
    rw [h.levelEntry] at ht
    exact ht (h.fits e p r a allow hf)

theorem fitsAt (h : s.Steers t) {e : EntryIx} (hf : s.fitsAt e) : t.fitsAt e := by
  have ht := h.fits e _ _ _ (.self s e) hf
  rwa [← h.present, ← h.reachable, ← h.levelEntry, ← h.entryAsserted] at ht

theorem sound (h : s.Steers t) (hs : s.entriesSound) : t.entriesSound :=
  State.entriesSound_iff.mpr fun e => h.fitsAt (State.entriesSound_iff.mp hs e)

/-- A change of one entry. -/
theorem of_entry (e : EntryIx) (attachment : ∀ m, t.attachment m = s.attachment m) (captures : t.captures = s.captures)
    (others : ∀ k, k ≠ e → t.entry k = s.entry k) (masked : ∀ k, (t.entry k).masked = (s.entry k).masked)
    (fits : ∀ present reach asserted, s.Allows e present reach asserted →
      (s.entry e).Fits present reach (s.levelEntry e) asserted → (t.entry e).Fits present reach (s.levelEntry e) asserted) :
    s.Steers t where
  attachment := attachment
  lines n := by simp only [State.capture, captures, and_self]
  masked := masked
  fits k p r a allow hf := by
    by_cases hk : k = e
    · subst hk; exact fits p r a allow hf
    · rw [others k hk]; exact hf

theorem attempt (t : Timestamp) {e : EntryIx} (ha : s.entryAsserted e = true) (hm : (s.entry e).masked = false) :
    s.Steers (s.attempt e t) :=
  .of_entry e (by simp) (by simp) (fun k => s.attempt_other t) (fun k => s.attempt_masked e k t)
    fun _ _ _ allow _ => State.attempt_fits ha hm t allow

theorem assertion (t : Timestamp) {e : EntryIx} (ha : s.entryAsserted e = true) : s.Steers (s.assertion e t) := by
  unfold State.assertion
  split
  · next h =>
    rw [Bool.and_eq_true, Bool.not_eq_true'] at h
    exact attempt t ha h.1
  · exact refl s

theorem resample (s : State) (e : EntryIx) (t : Timestamp) : s.Steers (s.resample e t) :=
  .of_entry e (by simp) (by simp) (fun k => s.resample_other t) (fun k => s.resample_masked e k t)
    fun _ _ _ allow _ => s.resample_fits e t allow

theorem leaveAwaiting (s : State) (m : Master) (t : Timestamp) (e : EntryIx) : s.Steers (s.leaveAwaiting m t e) := by
  refine .of_entry e (by simp) (by simp) (fun k hk => ?_) (fun k => ?_) fun p r a allow h =>
    State.leaveAwaiting_fits allow (h.mono (fun k hk => by simp [hk]) (fun _ hr => hr) fun ha => ha) t
  · unfold State.leaveAwaiting
    dsimp only
    split
    · exact s.resample_other t hk
    · rw [State.setEntry_entry, if_neg hk]
  · unfold State.leaveAwaiting
    dsimp only
    split
    · exact s.resample_masked e k t
    · rw [State.setEntry_entry]
      split_ifs with h <;> simp [h]

theorem deassertion (s : State) (e : EntryIx) : s.Steers (s.deassertion e) := by
  refine .of_entry e (by simp) (by simp) (fun k hk => ?_) (fun k => ?_) fun p r a _ h =>
    State.deassertion_fits (h.mono (fun _ hp => hp) (fun _ hr => hr) fun _ => rfl)
  · unfold State.deassertion
    split
    · rw [State.setEntry_entry, if_neg hk]
    · rfl
  · unfold State.deassertion
    split
    · rw [State.setEntry_entry]
      split_ifs with h <;> simp [h]
    · rfl

theorem expire (s : State) (e : EntryIx) : s.Steers (s.expire e) :=
  (of_stand (.of_eq (t := s.reportLapse e (s.entry e).awaiting s.now))).trans (resample _ e _)

/-- Hand-offs in any order: each keeps the entries that fit, and an entry that does not fit is made to by one of them. -/
theorem settles {handOffs : List (State → State)} (keeps : ∀ f ∈ handOffs, ∀ u, s.Steers u → u.Steers (f u))
    (fits : ∀ e, s.fitsAt e ∨ ∃ g ∈ handOffs, ∀ u, s.Steers u → (g u).fitsAt e) : (s.inAnyOrder handOffs).entriesSound := by
  have hstart (a : List Nat) : s.Steers { s with arbiter := a } := of_stand (.of_eq (fun _ => rfl) rfl rfl)
  refine State.entriesSound_iff.mpr fun e => ?_
  rcases fits e with hf | ⟨g, hg, hf⟩
  · exact (State.inAnyOrder_keeps (P := fun u => s.Steers u) hstart fun f hf u hu => hu.trans (keeps f hf u hu)).fitsAt hf
  · exact State.inAnyOrder_establishes (P := fun u => s.Steers u) (Q := fun u => u.fitsAt e) hg hstart
      (fun f hf u hu => hu.trans (keeps f hf u hu)) hf fun f hf u hu hq => (keeps f hf u hu).fitsAt hq

end State.Steers

/-! ### The capture events at their entry -/

theorem entryLine_capEntry (n : CapLine) : entryLine (capEntry n) = some n := by revert n; decide

theorem eq_capEntry_of_entryLine {e : EntryIx} {n : CapLine} (h : entryLine e = some n) : e = capEntry n := by
  revert e n
  decide

theorem State.levelEntry_capEntry (s : State) (n : CapLine) : s.levelEntry (capEntry n) = ((s.capture n).mode == .level) := by
  simp only [State.levelEntry, entryLine_capEntry]

theorem State.entryAsserted_capEntry (s : State) (n : CapLine) : s.entryAsserted (capEntry n) = (s.capture n).asserted := by
  simp only [State.entryAsserted, entryLine_capEntry]

theorem State.eventHandOffs_steers (s : State) {n : CapLine} {t : Timestamp} {v : CaptureEvent} {f : State → State}
    (hf : f ∈ s.eventHandOffs n t v) {u : State} (asserted : v = .assertion → u.entryAsserted (capEntry n) = true) :
    u.Steers (f u) := by
  rcases List.mem_append.mp hf with hf | hf
  · rw [List.mem_singleton.mp hf]
    cases v
    · exact .of_stand (.edgeEvent u _ _ _)
    · exact .assertion t (asserted rfl)
    · exact .deassertion u _
  · split at hf
    · rw [List.mem_singleton.mp hf]
      cases v
      · exact .of_stand (.momentary u _ t)
      · exact .of_stand (.joinSource u _ t)
      · exact .of_stand (.leaveSource u _ t)
    · cases hf

theorem State.groupHandOffs_steers (s : State) {n : CapLine} {t : Timestamp} {f : State → State}
    (hf : f ∈ s.groupHandOffs n t) (u : State) : u.Steers (f u) := by
  obtain ⟨g, -, rfl⟩ := List.mem_map.mp hf
  exact .of_stand (.edgeEvent u _ _ _)

theorem State.gateHandOff_steers (s : State) {n : CapLine} {x : CaptureSettings} {f : State → State}
    (hf : f ∈ s.gateHandOff n x) (u : State) : u.Steers (f u) := by
  unfold State.gateHandOff at hf
  split at hf
  · cases hf
  · obtain ⟨-, hf⟩ := mem_unless.mp hf
    rw [List.mem_singleton.mp hf]
    exact .of_stand .of_eq

/-- A deassertion event among the hand-offs sets the status of its entry right (R37, R46). -/
theorem State.Steers.deasserted {s u : State} {n : CapLine} (h : s.Steers u)
    (loose : (s.entry (capEntry n)).Fits s.present s.reachable (s.levelEntry (capEntry n)) true) (t : Timestamp) :
    (u.eventAtEntry n t .deassertion).fitsAt (capEntry n) := by
  have hu := h.fits (capEntry n) s.present s.reachable true ⟨fun _ h => h, fun _ h => h, fun _ => rfl⟩ loose
  rw [← h.present, ← h.reachable, ← h.levelEntry] at hu
  have hd := State.Steers.deassertion u (capEntry n)
  have hfit := State.deassertion_fits (asserted := u.entryAsserted (capEntry n)) hu
  rwa [← hd.present, ← hd.reachable, ← hd.levelEntry, ← hd.entryAsserted] at hfit

/-- What the qualifier makes of a change leaves the mode, the trigger's level and the asserted condition; an event of a LEVEL line
tells which the asserted condition is. -/
theorem CaptureLine.qualify_spec (c : CaptureLine) :
    c.qualify.1.mode = c.mode ∧ c.qualify.1.asserted = c.asserted ∧
      (c.mode = .level → c.qualify.2 = some (if c.asserted then .assertion else .deassertion)) ∧
      (c.mode = .edge → c.qualify.2 ≠ some .assertion) := by
  unfold CaptureLine.qualify
  cases hm : c.mode
  · simp only [reduceCtorEq, false_implies, true_and, forall_const]
    split_ifs
    · simp [CaptureLine.asserted, hm]
    · simp [CaptureLine.asserted, hm]
    · unfold CaptureLine.countEdge
      split_ifs <;> simp [CaptureLine.asserted, hm]
  · simp [CaptureLine.levelEvent, hm]

/-- A line whose mode and asserted condition stand. -/
theorem State.EntriesStand.setCapture {s : State} {n : CapLine} {c : CaptureLine} (mode : c.mode = (s.capture n).mode)
    (asserted : c.asserted = (s.capture n).asserted) : s.EntriesStand (s.setCapture n c) := by
  refine .of_captures (fun _ => rfl) (fun k => ?_) rfl
  rw [State.setCapture_capture]
  split
  · next h => rw [h]; exact ⟨mode, asserted⟩
  · exact ⟨rfl, rfl⟩

/-- R21: a qualified change, whose line's entry may be HELD for the level that is gone. -/
theorem State.qualifiedChange_sound {s : State} {n : CapLine} (t : Timestamp)
    (others : ∀ e, e ≠ capEntry n → s.fitsAt e)
    (loose : (s.entry (capEntry n)).Fits s.present s.reachable (s.levelEntry (capEntry n)) true)
    (edge : (s.capture n).mode = .edge → s.fitsAt (capEntry n)) : (s.qualifiedChange n t).entriesSound := by
  obtain ⟨mode, asserted, level, noAssertion⟩ := (s.capture n).qualify_spec
  have hfits (hstrict : s.fitsAt (capEntry n)) (e : EntryIx) : s.fitsAt e := by
    by_cases he : e = capEntry n
    · rw [he]; exact hstrict
    · exact others e he
  unfold State.qualifiedChange
  split
  · next c hq =>
    rw [hq] at mode asserted level
    have hstand : s.Steers (s.setCapture n c) := .of_stand (.setCapture mode asserted)
    refine State.Steers.settles (fun f hf u _ => s.groupHandOffs_steers hf u) fun e => .inl (hstand.fitsAt (hfits ?_ e))
    cases hm : (s.capture n).mode
    · exact edge hm
    · exact absurd (level hm) (by simp)
  · next c ev hq =>
    rw [hq] at mode asserted level noAssertion
    have hstand : s.Steers (s.setCapture n (c.stamp t)) := .of_stand (.setCapture mode asserted)
    have hkeeps (hassert : ev = .assertion → (s.capture n).asserted = true) (f : State → State)
        (hf : f ∈ s.groupHandOffs n t ++ s.eventHandOffs n t ev) (u : State) (hu : (s.setCapture n (c.stamp t)).Steers u) :
        u.Steers (f u) := by
      rcases List.mem_append.mp hf with hf | hf
      · exact s.groupHandOffs_steers hf u
      · refine s.eventHandOffs_steers hf fun hv => ?_
        rw [hu.entryAsserted, hstand.entryAsserted, State.entryAsserted_capEntry]
        exact hassert hv
    cases hm : (s.capture n).mode
    · exact State.Steers.settles (hkeeps fun hv => absurd (congrArg some hv) (noAssertion hm))
        fun e => .inl (hstand.fitsAt (hfits (edge hm) e))
    · have hev := Option.some.inj (level hm)
      cases ha : (s.capture n).asserted
      · rw [ha] at hev
        refine State.Steers.settles (hkeeps fun hv => by simp [hv] at hev) fun e => ?_
        by_cases he : e = capEntry n
        · refine .inr ⟨fun u => u.eventAtEntry n t ev, by simp [State.eventHandOffs], fun u hu => ?_⟩
          rw [he, hev]
          exact (hstand.trans hu).deasserted loose t
        · exact .inl (hstand.fitsAt (others e he))
      · refine State.Steers.settles (hkeeps fun _ => ha) fun e => .inl (hstand.fitsAt (hfits ?_ e))
        unfold State.fitsAt
        rw [State.entryAsserted_capEntry, ha]
        exact loose


theorem State.fitsAt_congr {s t : State} {e : EntryIx} (entry : t.entry e = s.entry e) (attachment : t.attachment = s.attachment)
    (level : t.levelEntry e = s.levelEntry e) (asserted : t.entryAsserted e = s.entryAsserted e) :
    t.fitsAt e ↔ s.fitsAt e := by
  have hp : t.present = s.present := funext fun m => by simp only [State.present, attachment]
  have hr : t.reachable = s.reachable := funext fun m => by simp only [State.reachable, attachment]
  rw [State.fitsAt, State.fitsAt, entry, hp, hr, level, asserted]

/-- A change of line n leaves the entries that other lines feed. -/
theorem State.setCapture_fitsAt (s : State) (n : CapLine) (c : CaptureLine) {e : EntryIx} (he : e ≠ capEntry n) :
    (s.setCapture n c).fitsAt e ↔ s.fitsAt e := by
  have hline (k : CapLine) (hk : entryLine e = some k) : (s.setCapture n c).capture k = s.capture k := by
    rw [State.setCapture_capture, if_neg]
    rintro rfl
    exact he (eq_capEntry_of_entryLine hk)
  exact State.fitsAt_congr rfl rfl (State.levelEntry_congr fun k hk => by rw [hline k hk])
    (State.entryAsserted_congr fun k hk => by rw [hline k hk])

/-- An entry that fits, when its line's asserted condition is left open. -/
theorem State.fitsAt.loosely {s : State} {e : EntryIx} (h : s.fitsAt e) :
    (s.entry e).Fits s.present s.reachable (s.levelEntry e) true :=
  h.mono (fun _ hp => hp) (fun _ hr => hr) fun _ => rfl

theorem Filter.take_level_of_loaded {f : Filter} {x : Level} (hl : f.loaded = true) (hq : f.qualifies x = false) :
    (f.take x).level = f.level := by
  unfold Filter.take
  unfold Filter.qualifies at hq
  dsimp only
  split_ifs with h1 h2 h3
  · simp [hl] at h1
  · rfl
  · simp [hl, h2, h3] at hq
  · rfl

/-- The state after one sample of line n, before what a qualified change or the loaded level brings on. -/
def State.sampled (s : State) (n : CapLine) (x : Level) : State :=
  { s.setCapture n { s.capture n with filter := (s.capture n).filter.take x } with capPins := s.capPins.set n x }

theorem State.sampleCapture_eq (s : State) (n : CapLine) (x : Level) :
    s.sampleCapture n x =
      if (s.capture n).filter.qualifies x then (s.sampled n x).qualifiedChange n s.now
      else if (s.capture n).filter.loaded then s.sampled n x else (s.sampled n x).statusAfterLoad n := rfl

theorem State.sampled_capture (s : State) (n : CapLine) (x : Level) :
    (s.sampled n x).capture n = { s.capture n with filter := (s.capture n).filter.take x } :=
  (State.setCapture_capture ..).trans (if_pos rfl)

/-- R17 to R19, R37: one sample of a line. -/
theorem State.sampleCapture_sound {s : State} (h : s.entriesSound) (n : CapLine) (x : Level) :
    (s.sampleCapture n x).entriesSound := by
  have hfits := State.entriesSound_iff.mp h
  have hcapture := s.sampled_capture n x
  have hlevel : (s.sampled n x).levelEntry (capEntry n) = s.levelEntry (capEntry n) := by
    rw [State.levelEntry_capEntry, State.levelEntry_capEntry, hcapture]
  have others (e : EntryIx) (he : e ≠ capEntry n) : (s.sampled n x).fitsAt e :=
    (s.setCapture_fitsAt n _ he).mpr (hfits e)
  have loose : ((s.sampled n x).entry (capEntry n)).Fits (s.sampled n x).present (s.sampled n x).reachable
      ((s.sampled n x).levelEntry (capEntry n)) true := by
    rw [hlevel]
    exact (hfits (capEntry n)).loosely
  have strict (ha : ((s.sampled n x).capture n).asserted = (s.capture n).asserted) (e : EntryIx) : (s.sampled n x).fitsAt e := by
    by_cases he : e = capEntry n
    · rw [he]
      refine (State.fitsAt_congr (t := s.sampled n x) (s := s) rfl rfl hlevel ?_).mpr (hfits _)
      rw [State.entryAsserted_capEntry, State.entryAsserted_capEntry, ha]
    · exact others e he
  rw [State.sampleCapture_eq]
  split
  · refine State.qualifiedChange_sound _ others loose fun hm => strict ?_ _
    rw [hcapture] at hm ⊢
    have hmode : ((s.capture n).mode == .level) = false := by rw [show (s.capture n).mode = .edge from hm]; decide
    simp only [CaptureLine.asserted, hmode, Bool.false_and]
  · next hq =>
    split
    · next hl =>
      refine State.entriesSound_iff.mpr (strict ?_)
      have hsame := Filter.take_level_of_loaded hl (by simpa using hq)
      simp only [CaptureLine.asserted, hcapture, hsame]
    · unfold State.statusAfterLoad
      refine State.entriesSound_iff.mpr fun e => ?_
      split
      · next ha =>
        by_cases he : e = capEntry n
        · rw [he, State.fitsAt, State.entryAsserted_capEntry, ha]
          exact loose
        · exact others e he
      · have hd := State.Steers.deassertion (s.sampled n x) (capEntry n)
        by_cases he : e = capEntry n
        · rw [he]
          exact State.Steers.deasserted (.refl _) loose s.now
        · exact hd.fitsAt (others e he)

/-! ### The commands on lines and entries -/

theorem State.setEntry_fitsAt (s : State) {e k : EntryIx} (x : Entry) (hk : k ≠ e) :
    (s.setEntry e x).fitsAt k ↔ s.fitsAt k := by
  have hentry : (s.setEntry e x).entry k = s.entry k := by rw [State.setEntry_entry, if_neg hk]
  exact State.fitsAt_congr hentry rfl rfl rfl

/-- R29, R49: a configured line; its entry awaits no master. -/
theorem State.configureCapture_sound {s : State} (h : s.entriesSound) {n : CapLine} (x : CaptureSettings)
    (idle : (s.entry (capEntry n)).awaiting = 0#4) : (s.configureCapture n x).entriesSound := by
  have hfits := State.entriesSound_iff.mp h
  have hold := hfits (capEntry n)
  have others (c : CaptureLine) (e : EntryIx) (he : e ≠ capEntry n) : (s.setCapture n c).fitsAt e :=
    (s.setCapture_fitsAt n c he).mpr (hfits e)
  have fits (level : Bool) {asserted : Bool} (ha : (s.capture n).asserted = true → asserted = true) :
      (s.entry (capEntry n)).Fits s.present s.reachable level asserted := by
    rw [← State.entryAsserted_capEntry] at ha
    exact ⟨hold.awaited, hold.served, fun hn => absurd idle hn, hold.timed, fun hh =>
      have hheld := hold.held hh
      ⟨ha hheld.1, hheld.2⟩⟩
  have strict (c : CaptureLine) (ha : (s.capture n).asserted = true → c.asserted = true) (e : EntryIx) :
      (s.setCapture n c).fitsAt e := by
    by_cases he : e = capEntry n
    · rw [he, State.fitsAt, State.entryAsserted_capEntry, State.setCapture_capture, if_pos rfl]
      exact fits _ ha
    · exact others c e he
  unfold State.configureCapture CaptureLine.configEvent
  dsimp only
  generalize (s.capture n).configure x = c
  have hstamp : (c.stamp s.now).asserted = c.asserted := rfl
  have hset (c : CaptureLine) : (s.setCapture n c).entryAsserted (capEntry n) = c.asserted := by
    rw [State.entryAsserted_capEntry, State.setCapture_capture, if_pos rfl]
  cases hb : (s.capture n).asserted <;> cases hc : c.asserted <;> dsimp only
  · exact State.Steers.settles (fun f hf u _ => s.gateHandOff_steers hf u) fun e => .inl (strict c (by simp [hb]) e)
  · refine State.Steers.settles (fun f hf u hu => ?_) fun e => .inl (strict _ (by simp [hb]) e)
    rcases List.mem_append.mp hf with hf | hf
    · exact s.gateHandOff_steers hf u
    · exact s.eventHandOffs_steers hf fun _ => by rw [hu.entryAsserted, hset, hstamp, hc]
  · refine State.Steers.settles (fun f hf u _ => ?_) fun e => ?_
    · rcases List.mem_append.mp hf with hf | hf
      · exact s.gateHandOff_steers hf u
      · exact s.eventHandOffs_steers hf fun hv => by cases hv
    · by_cases he : e = capEntry n
      · refine .inr ⟨fun u => u.eventAtEntry n s.now .deassertion, by simp [State.eventHandOffs], fun u hu => ?_⟩
        rw [he]
        exact hu.deasserted (fits _ fun _ => rfl) s.now
      · exact .inl (others _ e he)
  · exact State.Steers.settles (fun f hf u _ => s.gateHandOff_steers hf u) fun e => .inl (strict c (by simp [hc]) e)

/-- R52: an entry written while it awaits no master. -/
theorem State.writeEntry_sound {s : State} (h : s.entriesSound) {e : EntryIx} (c : EntrySettings)
    (idle : (s.entry e).awaiting = 0#4) : (s.writeEntry e c).entriesSound := by
  have hfits := State.entriesSound_iff.mp h
  refine State.Steers.settles (fun f hf u hu => ?_) fun k => .inl ?_
  · rcases List.mem_append.mp hf with hf | hf
    · unfold State.writeAttempt at hf
      split at hf
      · next hc =>
        rw [Bool.and_eq_true, Bool.not_eq_true'] at hc
        rw [List.mem_singleton.mp hf]
        refine .attempt _ ?_ ?_
        · rw [hu.entryAsserted]
          exact hc.1
        · rw [hu.masked, State.setEntry_entry, if_pos rfl]
          exact hc.2
      · cases hf
    · unfold State.flagHandOff at hf
      split at hf
      · cases hf
      · split at hf
        · split at hf
          · rw [List.mem_singleton.mp hf]; exact .of_stand (.joinSource u _ _)
          · rw [List.mem_singleton.mp hf]; exact .of_stand (.leaveSource u _ _)
          · cases hf
          · cases hf
        · cases hf
  · by_cases hk : k = e
    · rw [hk, State.fitsAt, State.setEntry_entry, if_pos rfl]
      exact .of_idle idle rfl ((hfits e).timer_none idle)
    · exact (s.setEntry_fitsAt _ hk).mpr (hfits k)

/-- R48: a change of the mask. -/
theorem State.changeMask_sound {s : State} (h : s.entriesSound) (e : EntryIx) (b : Bool) : (s.changeMask e b).entriesSound := by
  have hfits := State.entriesSound_iff.mp h
  have hset {x : Entry} (hx : x.Fits s.present s.reachable (s.levelEntry e) (s.entryAsserted e)) :
      (s.setEntry e x).entriesSound := by
    refine State.entriesSound_iff.mpr fun k => ?_
    by_cases hk : k = e
    · rw [hk, State.fitsAt, State.setEntry_entry, if_pos rfl]
      exact hx
    · exact (s.setEntry_fitsAt _ hk).mpr (hfits k)
  have hx := hfits e
  unfold State.changeMask
  dsimp only
  cases hm : (s.entry e).masked <;> cases b <;> dsimp only
  · exact h
  · refine hset ⟨hx.awaited, ?_, hx.leveled, hx.timed, fun hh => ?_⟩
    · rw [← hx.served]
      dsimp only
      split
      · next hs => simp [hs]
      · rfl
    · dsimp only at hh
      split at hh
      · cases hh
      · next hs => exact absurd hh hs
  · have hunmasked := hset (x := { s.entry e with masked := false })
      ⟨hx.awaited, hx.served, hx.leveled, hx.timed, fun hh => by
        have hmask := (hx.held hh).2.1
        rw [hm] at hmask
        cases hmask⟩
    split
    · next hc =>
      rw [Bool.and_eq_true] at hc
      refine State.Steers.sound (.attempt s.now ?_ ?_) hunmasked
      · exact hc.1
      · rw [State.setEntry_entry, if_pos rfl]
    · exact hunmasked
  · exact h

theorem State.complyDone_sound {s : State} (h : s.entriesSound) (m : Master) (tag : Byte) : (s.complyDone m tag).entriesSound := by
  refine State.Steers.settles (fun f hf u _ => ?_) fun e => .inl (State.entriesSound_iff.mp h e)
  obtain ⟨e, -, rfl⟩ := List.mem_map.mp hf
  exact .leaveAwaiting u m _ e

/-- R62, R64: a service period counts the timers that are left. -/
theorem State.servicePeriod_sound {s : State} (h : s.entriesSound) : s.servicePeriod.entriesSound := by
  have hexpired : s.takeExpiries.entriesSound := by
    refine State.Steers.settles (fun f hf u _ => ?_) fun e => .inl (State.entriesSound_iff.mp h e)
    obtain ⟨e, -, rfl⟩ := List.mem_map.mp hf
    exact .expire u e
  refine State.entriesSound_iff.mpr fun e => ?_
  have hentry : s.servicePeriod.entry e =
      { s.takeExpiries.entry e with timer := (s.takeExpiries.entry e).timer.map DeadlineTimer.servicePeriod } := by
    simp [State.servicePeriod, State.entry]
  have hx := State.entriesSound_iff.mp hexpired e
  have hlevel : s.servicePeriod.levelEntry e = s.takeExpiries.levelEntry e := rfl
  have hasserted : s.servicePeriod.entryAsserted e = s.takeExpiries.entryAsserted e := rfl
  rw [State.fitsAt, hentry, hlevel, hasserted]
  exact ⟨hx.awaited, hx.served, hx.leveled, fun ht => hx.timed (by simpa using ht), hx.held⟩

/-! ### Attachment -/

/-- R69, R70: the HELD entries that name a master which has come in make their attempts. -/
theorem State.attachedReactions_sound {s t : State} (h : s.entriesSound) {m : Master}
    (attached : t.attachment = fun k => if k = m then .attached else s.attachment k) (captures : t.captures = s.captures)
    (entries : t.entries = s.entries) (now : Timestamp) : (t.attachedReactions m now).entriesSound := by
  have hfits := State.entriesSound_iff.mp h
  have hentry (e : EntryIx) : t.entry e = s.entry e := by simp only [State.entry, entries]
  have hlevel (e : EntryIx) : t.levelEntry e = s.levelEntry e := by simp only [State.levelEntry, State.capture, captures]
  have hasserted (e : EntryIx) : t.entryAsserted e = s.entryAsserted e := by
    simp only [State.entryAsserted, State.capture, captures]
  have hpresent (k : Master) (hk : s.present k = true) : t.present k = true := by
    simp only [State.present, attached, decide_eq_true_eq] at hk ⊢
    split
    · simp
    · exact hk
  have hreach (k : Master) (hkm : k ≠ m) : t.reachable k = s.reachable k := by
    simp only [State.reachable, attached, if_neg hkm]
  refine State.Steers.settles (fun f hf u hu => ?_) fun e => ?_
  · rcases List.mem_append.mp hf with hf | hf
    · obtain ⟨e, he, rfl⟩ := List.mem_map.mp hf
      obtain ⟨-, he⟩ := List.mem_filter.mp he
      rw [Bool.and_eq_true, beq_iff_eq, hentry] at he
      obtain ⟨hass, hmask, -⟩ := (hfits e).held he.1
      exact .attempt now (by rw [hu.entryAsserted, hasserted, hass]) (by rw [hu.masked, hentry, hmask])
    · rw [List.mem_singleton.mp hf]
      exact .of_stand (.edgeEvent u _ _ _)
  · obtain ⟨awaited, served, leveled, timed, held⟩ := hfits e
    by_cases hheld : (s.entry e).status = .held ∧ (s.entry e).destinations.getLsbD m.val = true
    · obtain ⟨hass, hmask, -⟩ := held hheld.1
      refine .inr ⟨fun u => u.attempt e now, ?_, fun u hu => ?_⟩
      · refine List.mem_append_left _ (List.mem_map.mpr ⟨e, List.mem_filter.mpr ⟨List.mem_finRange e, ?_⟩, rfl⟩)
        rw [hentry, hheld.1, hheld.2]
        rfl
      · have hu' : u.entryAsserted e = true := by rw [hu.entryAsserted, hasserted, hass]
        have hm' : (u.entry e).masked = false := by rw [hu.masked, hentry, hmask]
        have ha := State.Steers.attempt now hu' hm'
        rw [State.fitsAt, ha.present, ha.reachable, ha.levelEntry, ha.entryAsserted]
        exact State.attempt_fits hu' hm' now (.self u e)
    · refine .inl ?_
      rw [State.fitsAt, hentry, hlevel, hasserted]
      refine ⟨fun k hk => ⟨(awaited k hk).1, hpresent k (awaited k hk).2⟩, served, leveled, timed, fun hh => ?_⟩
      obtain ⟨hass, hmask, hdest⟩ := held hh
      refine ⟨hass, hmask, fun k => ?_⟩
      by_cases hk : k = m
      · rw [hk]
        have hd : (s.entry e).destinations.getLsbD m.val = false := by
          rw [Bool.eq_false_iff]
          exact fun hd => hheld ⟨hh, hd⟩
        rw [hd, Bool.false_and]
      · rw [hreach k hk]
        exact hdest k

/-- R165: a master that is suspended is not DETACHED, and can be reached no longer. -/
theorem State.suspend_sound {s : State} (h : s.entriesSound) (m : Master) (now : Timestamp) :
    ((s.setAttachment m .suspended).attachChange m .suspended now).entriesSound := by
  refine (State.Steers.of_stand (.edgeEvent _ _ _ _)).sound (State.entriesSound_iff.mpr fun e => ?_)
  refine (State.entriesSound_iff.mp h e).mono (fun k hk => ?_) (fun k hk => ?_) fun ha => ha
  · simp only [State.present, State.setAttachment_attachment, decide_eq_true_eq] at hk ⊢
    split
    · simp
    · exact hk
  · simp only [State.reachable, State.setAttachment_attachment, beq_iff_eq] at hk ⊢
    split at hk
    · cases hk
    · exact hk

/-- R71, R167: the entries that await a master which is torn down lose it. -/
theorem State.detach_sound {s : State} (h : s.entriesSound) (m : Master) :
    ((s.tearDown m).inAnyOrder (s.detachHandOffs m)).entriesSound := by
  have hfits := State.entriesSound_iff.mp h
  have hentry (e : EntryIx) : (s.tearDown m).entry e = s.entry e := by simp [State.entry]
  have hlevel (e : EntryIx) : (s.tearDown m).levelEntry e = s.levelEntry e := by
    simp only [State.levelEntry, State.capture, State.tearDown_captures]
  have hasserted (e : EntryIx) : (s.tearDown m).entryAsserted e = s.entryAsserted e := by
    simp only [State.entryAsserted, State.capture, State.tearDown_captures]
  have hattachment (k : Master) : (s.tearDown m).attachment k = if k = m then .detached else s.attachment k :=
    State.setAttachment_attachment s m .detached k
  have hpresent (k : Master) (hk : s.present k = true) : ((s.tearDown m).present k || k == m) = true := by
    by_cases hkm : k = m
    · simp [hkm]
    · simpa [State.present, hattachment, hkm] using hk
  have hreach (k : Master) (hk : (s.tearDown m).reachable k = true) : s.reachable k = true := by
    by_cases hkm : k = m
    · simp [State.reachable, hattachment, hkm] at hk
    · simpa [State.reachable, hattachment, hkm] using hk
  have loose (e : EntryIx) : ((s.tearDown m).entry e).Fits (fun k => (s.tearDown m).present k || k == m)
      (s.tearDown m).reachable ((s.tearDown m).levelEntry e) ((s.tearDown m).entryAsserted e) := by
    rw [hentry, hlevel, hasserted]
    exact (hfits e).mono hpresent hreach fun ha => ha
  refine State.Steers.settles (fun f hf u _ => ?_) fun e => ?_
  · rcases List.mem_append.mp hf with hf | hf
    · rcases List.mem_append.mp hf with hf | hf
      · obtain ⟨e, -, rfl⟩ := List.mem_map.mp hf
        exact .leaveAwaiting u m _ e
      · split at hf
        · rw [List.mem_singleton.mp hf]; exact .of_stand (.rearmCheck u _)
        · cases hf
    · rw [List.mem_singleton.mp hf]
      exact .of_stand (.edgeEvent u _ _ _)
  · cases hw : (s.entry e).awaiting.getLsbD m.val
    · have hl := loose e
      refine .inl ⟨fun k hk => ?_, hl.served, hl.leveled, hl.timed, hl.held⟩
      obtain ⟨hd, hp⟩ := hl.awaited k hk
      refine ⟨hd, (Bool.or_eq_true_iff.mp hp).resolve_right fun hkm => ?_⟩
      rw [hentry, beq_iff_eq.mp hkm, hw] at hk
      cases hk
    · refine .inr ⟨fun u => u.leaveAwaiting m s.now e, ?_, fun u hu => ?_⟩
      · refine List.mem_append_left _ (List.mem_append_left _ (List.mem_map.mpr ⟨e, List.mem_filter.mpr ⟨List.mem_finRange e, ?_⟩,
          rfl⟩))
        rw [hw]
        rfl
      · have hl := hu.fits e _ _ _
          ⟨fun k hk => by rw [hk]; rfl, fun _ hr => hr, fun ha => ha⟩ (loose e)
        rw [← hu.present, ← hu.reachable, ← hu.levelEntry, ← hu.entryAsserted] at hl
        have hleave := State.Steers.leaveAwaiting u m s.now e
        rw [State.fitsAt, hleave.present, hleave.reachable, hleave.levelEntry, hleave.entryAsserted]
        exact State.leaveAwaiting_fits (.self u e) hl s.now

/-! ### Every work -/

theorem Work.keeps_entriesSound {s t : State} (w : Work s t) (h : s.entriesSound) : t.entriesSound := by
  have stand {u : State} (g : s.EntriesStand u) : u.entriesSound := (State.Steers.of_stand g).sound h
  cases w
  case nothing => exact h
  case attach m =>
    refine State.attachedReactions_sound h (m := m) (funext fun k => ?_) ?_ ?_ _
    · exact State.setAttachment_attachment s m .attached k
    · simp
    · simp
  case resume m =>
    refine State.attachedReactions_sound h (m := m) (funext fun k => ?_) ?_ ?_ _
    · exact State.setAttachment_attachment s m .attached k
    · simp
    · simp
  case detach m => exact State.detach_sound h m
  case suspend m => exact State.suspend_sound h m _
  case rightsWrite c _ => exact stand (.writeRights s c)
  case tbHold => exact stand ((State.EntriesStand.settle s).trans .of_eq)
  case resync => exact stand (.resync s)
  case sampleSync x => exact stand (.sampleSync s x)
  case tick => exact stand (.tick s)
  case servicePeriod => exact State.servicePeriod_sound h
  case period =>
    refine stand (.of_captures (fun _ => rfl) (fun n => ?_) rfl)
    simp [State.countPeriods, State.capture, CaptureLine.asserted, Filter.countPeriod]
  case capConfig f n x _ idle => exact State.configureCapture_sound h x idle
  case capGate n => exact stand (.openGate s n)
  case sampleCapture n x => exact State.sampleCapture_sound h n x
  case entryWrite e c idle => exact State.writeEntry_sound h c idle
  case entryMask e b => exact State.changeMask_sound h e b
  case done m tag => exact State.complyDone_sound h m tag
  case expire e => exact (State.Steers.expire s e).sound h
  case actCancel n r _ =>
    unfold State.cancelAction
    split
    · exact stand .of_eq
    · exact stand .of_eq
  case actRead => exact stand (.settle s)
  case takeFire n => exact stand (.takeFire s n)
  case cutForce m => exact stand (.momentary s _ _)
  case cutRestore m lines _ =>
    exact stand ((State.EntriesStand.of_eq (t := s.changeLines _ _)).trans (.rearmCheck _ _))
  case cutConfig x => exact stand ((State.EntriesStand.of_eq (t := s.setCutoff _)).trans (.pinChanged _ _ _))
  case sampleCutoff x =>
    have hset (c : Cutoff) : s.EntriesStand { s.setCutoff c with cutoffPin := x } := .of_eq (fun _ => rfl) rfl rfl
    unfold State.sampleCutoff
    dsimp only
    split
    · exact stand ((hset _).trans (.pinChanged _ _ _))
    · exact stand (hset _)
  case supvClaim m _ => exact stand (.of_eq (fun _ => rfl) rfl rfl)
  case labelWrite l _ => exact stand (.of_eq (fun _ => rfl) rfl rfl)
  case lineConfig l c _ _ => exact stand (.of_eq (fun _ => rfl) rfl rfl)
  all_goals exact stand .of_eq

end Sys2Proof.Machine

open Sys2Proof Sys2Proof.Machine

/-- Settles O57: every effect of a step keeps the entries that fit their state. -/
theorem everyStepKeepsAwaitingSets : Obligations.EveryStepKeepsAwaitingSets := by
  unfold Obligations.EveryStepKeepsAwaitingSets
  intro s t h hstep
  refine step_keeps (P := State.entriesSound) (fun s t ha h => ?_) State.reset_entriesSound (fun _ _ w h => w.keeps_entriesSound h) h hstep
  exact (State.Steers.of_stand (.of_eq ha.attachment ha.captures ha.entries)).sound h

end

section
/-! PROOF. Every step keeps the ranges of the Timebase and of the Capture Lines; the supervisor and the label last until device
reset. -/
namespace Sys2Proof.Machine

/-! ### What a work leaves, field by field -/

theorem State.cancelAction_timebase (s : State) (n : Slot) (r : ActionRecord) : (s.cancelAction n r).timebase = s.timebase := by
  unfold State.cancelAction
  split <;> simp

/-- What the hand-offs of a DETACH leave. -/
theorem State.detach_field {α : Type} (F : State → α) (s : State) (m : Master) (down : F (s.tearDown m) = F s)
    (arbiter : ∀ (u : State) (a : List Nat), F { u with arbiter := a } = F u)
    (leave : ∀ (u : State) (t : Timestamp) (e : EntryIx), F (u.leaveAwaiting m t e) = F u)
    (rearm : ∀ (u : State) (t : Timestamp), F (u.rearmCheck t) = F u)
    (change : ∀ (u : State) (t : Timestamp), F (u.attachChange m .detached t) = F u) :
    F ((s.tearDown m).inAnyOrder (s.detachHandOffs m)) = F s := by
  refine (State.inAnyOrder_field F (fun a => arbiter _ a) fun f hf u => ?_).trans down
  rcases List.mem_append.mp hf with hf | hf
  · rcases List.mem_append.mp hf with hf | hf
    · obtain ⟨e, -, rfl⟩ := List.mem_map.mp hf
      exact leave u _ e
    · split at hf
      · rw [List.mem_singleton.mp hf]; exact rearm u _
      · cases hf
  · rw [List.mem_singleton.mp hf]
    exact change u _

/-- What the hand-offs of a DONE leave. -/
theorem State.complyDone_field {α : Type} (F : State → α) (s : State) (m : Master) (tag : Byte)
    (arbiter : ∀ (u : State) (a : List Nat), F { u with arbiter := a } = F u)
    (leave : ∀ (u : State) (t : Timestamp) (e : EntryIx), F (u.leaveAwaiting m t e) = F u) :
    F (s.complyDone m tag) = F s := by
  refine State.inAnyOrder_field F (fun a => arbiter _ a) fun f hf u => ?_
  obtain ⟨e, -, rfl⟩ := List.mem_map.mp hf
  exact leave u _ e

/-! ### The Timebase (R1, R2, R7, R8) -/

namespace Timebase.sound

variable {t : Timebase}

/-- R4: the frame phase and the staged period go with the frame period. -/
structure Framed (period phase : Nat) (staged : Option Nat) : Prop where
  legal : period ≠ 1 ∧ period < 2 ^ 24
  off : period = 0 → phase = 0 ∧ staged = none
  on : period ≠ 0 → phase < period
  next : ∀ p, staged = some p → p ≠ 1 ∧ p < 2 ^ 24

theorem framed (h : t.sound) : Framed t.framePeriod t.phase t.staged := by
  obtain ⟨-, -, -, -, h1, h2, h3, h4, h5, -⟩ := h
  exact ⟨⟨h1, h2⟩, h3, h4, h5⟩

/-- The dividers and the framing, each of its own. -/
theorem of_parts {u : Timebase} (prescale : 1 ≤ u.prescale ∧ u.prescale ≤ 256) (divider : u.divider < u.prescale)
    (halted : u.run = .halted → u.divider = 0) (framed : Framed u.framePeriod u.phase u.staged)
    (service : u.serviceDivider < 5000) : u.sound :=
  ⟨prescale.1, prescale.2, divider, halted, framed.legal.1, framed.legal.2, framed.off, framed.on, framed.next, service⟩

/-- Any change of the frame phase, the frame period and the staged period alone. -/
theorem of_framed (h : t.sound) {u : Timebase} (prescale : u.prescale = t.prescale) (divider : u.divider = t.divider ∨ u.divider = 0)
    (run : u.run = t.run) (service : u.serviceDivider = t.serviceDivider) (framed : Framed u.framePeriod u.phase u.staged) :
    u.sound := by
  obtain ⟨p1, p2, hd, hh, -, -, -, -, -, hs⟩ := h
  refine of_parts (by rw [prescale]; exact ⟨p1, p2⟩) ?_ (fun hr => ?_) framed (by rw [service]; exact hs)
  · rw [prescale]
    rcases divider with e | e <;> omega
  · rcases divider with e | e
    · rw [e]; exact hh (run ▸ hr)
    · exact e

theorem advance (h : t.sound) : t.advance.sound := by
  have hf := h.framed
  refine h.of_framed (u := t.advance) rfl (.inr rfl) rfl rfl ?_
  unfold Timebase.advance
  dsimp only
  by_cases hw : t.wraps = true
  · simp only [hw, if_true]
    cases hs : t.staged with
    | none => exact ⟨hf.legal, fun _ => ⟨rfl, rfl⟩, fun hp => Nat.pos_of_ne_zero hp, by simp⟩
    | some p => exact ⟨hf.next p hs, fun _ => ⟨rfl, rfl⟩, fun hp => Nat.pos_of_ne_zero hp, by simp⟩
  · simp only [hw, Bool.false_eq_true, if_false]
    refine ⟨hf.legal, fun h0 => ⟨?_, (hf.off h0).2⟩, fun hp => ?_, hf.next⟩
    · simp [Timebase.framing, h0]
    · have hfr : t.framing = true := by simpa [Timebase.framing] using hp
      rw [Timebase.wraps, hfr, Bool.true_and, beq_iff_eq] at hw
      have hlt := hf.on hp
      rw [if_pos hfr]
      omega

theorem reload (h : t.sound) : t.reload.sound := by
  have hf := h.framed
  exact h.of_framed (u := t.reload) rfl (.inl rfl) rfl rfl
    ⟨hf.legal, fun h0 => ⟨rfl, (hf.off h0).2⟩, fun hp => Nat.pos_of_ne_zero hp, hf.next⟩

theorem toRunning (h : t.sound) : t.toRunning.sound := by
  have parts := h
  obtain ⟨p1, p2, hd, hh, -, -, -, -, -, hs⟩ := parts
  unfold Timebase.toRunning
  split
  · exact of_parts ⟨p1, p2⟩ p1 (fun _ => rfl) h.framed hs
  · exact h

theorem toHalted (h : t.sound) : t.toHalted.sound := by
  have parts := h
  obtain ⟨p1, p2, hd, hh, -, -, -, -, -, hs⟩ := parts
  unfold Timebase.toHalted
  split
  · exact of_parts ⟨p1, p2⟩ p1 (fun _ => rfl) h.framed hs
  · exact h

theorem countPeriod (h : t.sound) : t.countPeriod.sound := by
  have hcount (limit n : Nat) (hl : 1 ≤ limit) : (Machine.countPeriod limit n).1 < limit := by
    unfold Machine.countPeriod
    split <;> dsimp only <;> omega
  have parts := h
  obtain ⟨p1, p2, hd, hh, -, -, -, -, -, hs⟩ := parts
  refine of_parts ⟨p1, p2⟩ ?_ (fun hr => ?_) h.framed (hcount _ _ (by decide))
  · unfold Timebase.countPeriod
    dsimp only
    split
    · exact hcount _ _ p1
    · exact hd
  · have hr' : t.run = .halted := hr
    simp [Timebase.countPeriod, hr', hh hr']

theorem writePeriod (h : t.sound) {p : Nat} (legal : p ≠ 1 ∧ p < 2 ^ 24) : (t.writePeriod p).sound := by
  have hf := h.framed
  unfold Timebase.writePeriod
  split
  · next hfr =>
    refine h.of_framed rfl (.inl rfl) rfl rfl ⟨hf.legal, fun h0 => ?_, hf.on, fun q hq => ?_⟩
    · have hfr' : t.framePeriod = 0 := h0
      simp [Timebase.framing, hfr'] at hfr
    · cases hq; exact legal
  · next hfr =>
    have h0 : t.framePeriod = 0 := by simpa [Timebase.framing] using hfr
    exact h.of_framed rfl (.inl rfl) rfl rfl
      ⟨legal, fun _ => ⟨rfl, (hf.off h0).2⟩, fun hp => Nat.pos_of_ne_zero hp, hf.next⟩

theorem serviced (h : t.sound) : Timebase.sound { t with serviceDivider := 0 } := by
  have parts := h
  obtain ⟨p1, p2, hd, hh, -, -, -, -, -, -⟩ := parts
  exact of_parts ⟨p1, p2⟩ hd hh h.framed (Nat.zero_lt_succ _)

end Timebase.sound

/-- What TB_CONFIG checks of the settings it selects (R9). -/
theorem timebaseSettingsOf_ranges {f : TbFields} {c : TimebaseSettings} (h : timebaseSettingsOf f = some c) :
    (∀ p, c.prescale = some p → 1 ≤ p ∧ p ≤ 256) ∧ ∀ p, c.framePeriod = some p → p ≠ 1 ∧ p < 2 ^ 24 := by
  have hsel {α : Type} {chosen : Bool} {v : Option α} {w : Option α} (hs : selected chosen v = some w) {x : α}
      (hx : w = some x) : v = some x := by
    unfold selected at hs
    split at hs
    · obtain ⟨y, hy, rfl⟩ := Option.map_eq_some_iff.mp hs
      rw [hy, ← hx]
    · cases hs; cases hx
  unfold timebaseSettingsOf at h
  split at h
  · cases h
  · split at h
    · next hp hfp _ _ =>
      cases h
      refine ⟨fun p e => ?_, fun p e => ?_⟩
      · have hd := hsel hp e
        unfold prescaleOf at hd
        split at hd
        · next hr => cases hd; exact hr
        · cases hd
      · have hd := hsel hfp e
        unfold framePeriodOf at hd
        split at hd
        · cases hd
        · next hne => cases hd; exact ⟨hne, f.framePeriod.isLt⟩
    · cases h

/-- R9 to R11: a selected prescaler is written only while HALTED, when the divider is 0. -/
theorem Timebase.sound.configure {t : Timebase} (h : t.sound) {f : TbFields} {c : TimebaseSettings}
    (read : timebaseSettingsOf f = some c) (halted : c.prescale.isSome = true → t.run ≠ .running) : (t.configure c).sound := by
  obtain ⟨hpre, hper⟩ := timebaseSettingsOf_ranges read
  have hmid : Timebase.sound { t with
      prescale := c.prescale.getD t.prescale
      syncMode := c.syncMode.getD t.syncMode
      resyncValue := c.resyncValue.getD t.resyncValue } := by
    have parts := h
    obtain ⟨p1, p2, hd, hh, -, -, -, -, -, hs⟩ := parts
    cases hp : c.prescale with
    | none => exact .of_parts ⟨p1, p2⟩ hd hh h.framed hs
    | some p =>
      obtain ⟨q1, q2⟩ := hpre p hp
      have h0 : t.divider = 0 := by
        cases hr : t.run with
        | running => exact absurd hr (halted (by simp [hp]))
        | halted => exact hh hr
      exact .of_parts ⟨q1, q2⟩ (by simpa [h0] using Nat.lt_of_lt_of_le Nat.zero_lt_one q1) hh h.framed hs
  unfold Timebase.configure
  dsimp only
  split
  · next p hp => exact hmid.writePeriod (hper p hp)
  · exact hmid

theorem Work.keeps_timebase {s t : State} (w : Work s t) (h : s.timebase.sound) : t.timebase.sound := by
  have same {u : State} (e : u.timebase = s.timebase) : u.timebase.sound := e ▸ h
  have hresync (v : State) (hv : v.timebase.sound) : v.resync.timebase.sound := by
    unfold State.resync
    dsimp only
    rw [State.edgeEvent_timebase, State.rebase_timebase]
    exact hv.reload
  cases w
  case detach m =>
    exact same (State.detach_field State.timebase s m (by simp) (fun _ _ => rfl) (fun _ _ _ => by simp) (fun _ _ => by simp)
      fun _ _ => by simp)
  case done m tag => exact same (s.complyDone_field State.timebase m tag (fun _ _ => rfl) fun _ _ _ => by simp)
  case supvClaim m _ => exact h
  case labelWrite l _ => exact h
  case tbConfig f c read halted => exact h.configure read halted
  case tbRun => exact h.toRunning
  case tbHold =>
    have hs : s.settle.timebase.sound := by rw [State.settle_timebase]; exact h
    exact hs.toHalted
  case resync => exact hresync s h
  case sampleSync x =>
    have hset : Timebase.sound { s.timebase with syncSample := x } := h
    unfold State.sampleSync
    dsimp only
    split
    · exact hresync _ hset
    · exact hset
  case tick =>
    have hs : s.settle.timebase.sound := by rw [State.settle_timebase]; exact h
    unfold State.tick
    dsimp only
    rw [State.tickDeadTimes_timebase]
    split
    · rw [State.edgeEvent_timebase]
      exact hs.advance
    · exact hs.advance
  case servicePeriod =>
    have hs : s.takeExpiries.timebase.sound := by rw [State.takeExpiries_timebase]; exact h
    exact hs.serviced
  case period => exact h.countPeriod
  case lineConfig l c _ _ => exact h
  case cutRestore m lines _ => exact same ((State.rearmCheck_timebase ..).trans (State.changeLines_timebase ..))
  case cutConfig x => exact same ((State.pinChanged_timebase ..).trans (State.setCutoff_timebase ..))
  case actCancel n r _ => exact same (s.cancelAction_timebase n r)
  all_goals exact same (by simp)

/-! ### The Capture Lines (R17, R24, R25) -/

namespace CaptureLine.sound

variable {c : CaptureLine}

theorem openGate (h : c.sound) : c.openGate.sound := by
  obtain ⟨h1, h2, h3, h4, h5, h6, -, h8⟩ := h
  exact ⟨h1, h2, h3, h4, h5, h6, fun _ => rfl, h8⟩

theorem stamp (h : c.sound) (t : Timestamp) : (c.stamp t).sound := h

theorem countPeriod (h : c.sound) : CaptureLine.sound { c with filter := c.filter.countPeriod } := h

/-- R19: a run count ends below the filter length, which is at most 15. -/
theorem take (h : c.sound) (x : Level) : CaptureLine.sound { c with filter := c.filter.take x } := by
  obtain ⟨h1, h2, h3, hrest⟩ := h
  have hlength : (c.filter.take x).length = c.filter.length ∧ (c.filter.take x).interval = c.filter.interval := by
    unfold Filter.take
    dsimp only
    split_ifs <;> exact ⟨rfl, rfl⟩
  have hrun : (c.filter.take x).run ≤ 15 := by
    unfold Filter.take
    dsimp only
    split_ifs <;> dsimp only <;> omega
  exact ⟨by rw [hlength.1]; exact h1, hrun, by rw [hlength.2]; exact h3, hrest⟩

/-- R23 to R25: an edge counts below the prescale, and closes only an enabled gate. -/
theorem qualify (h : c.sound) : c.qualify.1.sound := by
  obtain ⟨h1, h2, h3, h4, h5, h6, h7, h8⟩ := h
  unfold CaptureLine.qualify
  split
  · exact ⟨h1, h2, h3, h4, h5, h6, h7, h8⟩
  · next hm =>
    have hmode (e : c.mode = .level) : False := by rw [hm] at e; cases e
    split_ifs
    · exact ⟨h1, h2, h3, h4, h5, h6, h7, h8⟩
    · exact ⟨h1, h2, h3, h4, h5, h6, h7, h8⟩
    · unfold CaptureLine.countEdge
      split
      · refine ⟨h1, h2, h3, h4, h5, Nat.zero_le _, fun hg => ?_, fun _ => rfl⟩
        have hg' : c.gateEnable = false := hg
        exact (if_neg (by simp [hg'])).trans (h7 hg')
      · next hlast =>
        refine ⟨h1, h2, h3, h4, h5, ?_, h7, fun e => (hmode e).elim⟩
        dsimp only
        omega

theorem configure (h : c.sound) {f : CapFields} {x : CaptureSettings} (read : captureSettingsOf f = some x) :
    (c.configure x).sound := by
  obtain ⟨-, -, -, hlength, hinterval, hprescale, -⟩ := captureSettingsOf_some read
  obtain ⟨-, -, -, rlength, rinterval, rprescale, rprescale', -⟩ := captureSettingsOf_isSome.mp (Option.isSome_iff_exists.mpr ⟨x, read⟩)
  obtain ⟨-, h2, -, -, -, h6, h7, h8⟩ := h
  refine ⟨?_, h2, ?_, ?_, ?_, ?_, fun hg => ?_, fun hm => ?_⟩
  · exact (filterLengthOf_some hlength).trans_le rlength
  · rw [← intervalOf_some hinterval] at rinterval
    exact rinterval
  · exact rprescale.trans_eq (prescaleOf_some hprescale).symm
  · exact (prescaleOf_some hprescale).trans_le rprescale'
  · unfold CaptureLine.configure
    dsimp only
    split
    · exact h6
    · exact Nat.zero_le _
  · have hg' : x.gateEnable = false := hg
    simp [CaptureLine.configure, hg']
  · have hm' : x.mode = .level := hm
    unfold CaptureLine.configure
    dsimp only
    split
    · next hk =>
      rw [CaptureLine.keepsCount, Bool.and_eq_true, beq_iff_eq] at hk
      exact h8 (hk.1.trans hm')
    · rfl

end CaptureLine.sound

namespace State.capturesSound

variable {s t : State}

theorem of_eq (h : s.capturesSound) (e : t.captures = s.captures := by simp) : t.capturesSound := fun n => by
  simp only [State.capture, e]
  exact h n

theorem setCapture (h : s.capturesSound) (n : CapLine) {c : CaptureLine} (hc : c.sound) : (s.setCapture n c).capturesSound :=
  fun k => by
    rw [State.setCapture_capture]
    split
    · exact hc
    · exact h k

theorem fire (h : s.capturesSound) (n : Slot) (r : ActionRecord) (t : Timestamp) : (s.fire n r t).capturesSound := by
  unfold State.fire
  split
  · exact h.of_eq
  · exact h.of_eq
  · exact h.of_eq
  · refine State.capturesSound.of_eq (s := s.openTarget r) ?_ (by simp)
    unfold State.openTarget
    split
    · exact h.setCapture _ (h _).openGate
    · exact h
    · exact h
  · exact h.of_eq
  · exact h.of_eq

theorem takeFire (h : s.capturesSound) (n : Slot) : (s.takeFire n).capturesSound := by
  unfold State.takeFire
  split
  · split
    · exact h.fire n _ _
    · exact h
  · exact h

theorem settle (h : s.capturesSound) : s.settle.capturesSound := by
  rw [State.settle_eq_takeAll]
  refine List.foldlRecOn (motive := State.capturesSound) _ _ ?_ fun u hu n _ => hu.takeFire n
  refine List.foldlRecOn (motive := State.capturesSound) _ _ ?_ fun u hu n _ => hu.of_eq
  exact List.foldlRecOn (motive := State.capturesSound) _ _ h fun u hu p _ => hu.of_eq

theorem qualifiedChange (h : s.capturesSound) (n : CapLine) (t : Timestamp) : (s.qualifiedChange n t).capturesSound := by
  refine of_eq (s := s.setCapture n _) (h.setCapture n ?_) (s.qualifiedChange_captures n t)
  split
  · exact (h n).qualify.stamp t
  · exact (h n).qualify

theorem sampleCapture (h : s.capturesSound) (n : CapLine) (x : Level) : (s.sampleCapture n x).capturesSound := by
  have hset : (s.sampled n x).capturesSound := h.setCapture n ((h n).take x)
  rw [State.sampleCapture_eq]
  split
  · exact hset.qualifiedChange n _
  · split
    · exact hset
    · exact hset.of_eq

theorem configureCapture (h : s.capturesSound) (n : CapLine) {f : CapFields} {x : CaptureSettings}
    (read : captureSettingsOf f = some x) : (s.configureCapture n x).capturesSound := by
  have hset (c : CaptureLine) (hc : c.sound) {handOffs : List (State → State)}
      (hf : ∀ f ∈ handOffs, ∀ u : State, (f u).captures = u.captures) :
      ((s.setCapture n c).inAnyOrder handOffs).capturesSound :=
    (h.setCapture n hc).of_eq (State.inAnyOrder_field State.captures (fun _ => rfl) hf)
  have hgate (f : State → State) (hf : f ∈ s.gateHandOff n x) (u : State) : (f u).captures = u.captures := by
    unfold State.gateHandOff at hf
    split at hf
    · cases hf
    · obtain ⟨-, hf⟩ := mem_unless.mp hf
      rw [List.mem_singleton.mp hf, State.cancelRecords_captures]
  unfold State.configureCapture
  dsimp only
  split
  · exact hset _ ((h n).configure read) hgate
  · refine hset _ (((h n).configure read).stamp _) fun f hf u => ?_
    rcases List.mem_append.mp hf with hf | hf
    · exact hgate f hf u
    · exact s.eventHandOffs_captures hf u

end State.capturesSound

theorem Work.keeps_capturesSound {s t : State} (w : Work s t) (h : s.capturesSound) : t.capturesSound := by
  cases w
  case detach m =>
    exact h.of_eq (State.detach_field State.captures s m (by simp) (fun _ _ => rfl) (fun _ _ _ => by simp)
      (fun _ _ => by simp) fun _ _ => by simp)
  case done m tag => exact h.of_eq (s.complyDone_field State.captures m tag (fun _ _ => rfl) fun _ _ _ => by simp)
  case supvClaim m _ => exact h
  case labelWrite l _ => exact h
  case tbHold => exact h.settle.of_eq
  case tick =>
    have hset : (s.settle.setTimebase s.settle.timebase.advance).capturesSound := h.settle.of_eq
    unfold State.tick
    dsimp only
    split
    · exact State.capturesSound.of_eq (s := (State.edgeEvent _ _ _ _)) hset.of_eq rfl
    · exact hset
  case period => exact fun n => by simpa [State.countPeriods, State.capture] using (h n).countPeriod
  case capConfig f n x read _ => exact h.configureCapture n read
  case capGate n => exact h.setCapture n (h n).openGate
  case sampleCapture n x => exact h.sampleCapture n x
  case actCancel n r _ =>
    unfold State.cancelAction
    split
    · exact h.of_eq
    · exact h.of_eq
  case actRead => exact h.settle
  case takeFire n => exact h.takeFire n
  case lineConfig l c _ _ => exact h
  case cutRestore m lines _ => exact h.of_eq ((State.rearmCheck_captures ..).trans (State.changeLines_captures ..))
  case cutConfig x => exact h.of_eq ((State.pinChanged_captures ..).trans (State.setCutoff_captures ..))
  all_goals exact h.of_eq

/-! ### The supervisor and the label (R146, R154) -/

/-- A supervisor and a label that are there stay. -/
def State.Lasts (s t : State) : Prop :=
  (∀ m, s.supervisor = some m → t.supervisor = some m) ∧ ∀ l, s.label = some l → t.label = some l

theorem State.Lasts.of_eq {s t : State} (supervisor : t.supervisor = s.supervisor := by simp)
    (label : t.label = s.label := by simp) : s.Lasts t :=
  ⟨fun _ h => supervisor.trans h, fun _ h => label.trans h⟩

theorem Work.lasts {s t : State} (w : Work s t) : s.Lasts t := by
  cases w
  case supvClaim m free => exact ⟨fun k h => by simp [free] at h, fun _ h => h⟩
  case labelWrite l unwritten => exact ⟨fun _ h => h, fun k h => by simp [unwritten] at h⟩
  case detach m =>
    refine .of_eq ?_ ?_
    · exact State.detach_field State.supervisor s m (by simp) (fun _ _ => rfl) (fun _ _ _ => by simp) (fun _ _ => by simp)
        fun _ _ => by simp
    · exact State.detach_field State.label s m (by simp) (fun _ _ => rfl) (fun _ _ _ => by simp) (fun _ _ => by simp)
        fun _ _ => by simp
  case done m tag =>
    exact .of_eq (s.complyDone_field State.supervisor m tag (fun _ _ => rfl) fun _ _ _ => by simp)
      (s.complyDone_field State.label m tag (fun _ _ => rfl) fun _ _ _ => by simp)
  case lineConfig l c _ _ => exact .of_eq rfl rfl
  case period => exact .of_eq rfl rfl
  case servicePeriod => exact .of_eq (State.takeExpiries_supervisor s) (State.takeExpiries_label s)
  case tick => exact .of_eq
  case actCancel n r _ =>
    unfold State.cancelAction
    split
    · exact .of_eq
    · exact .of_eq
  case cutRestore m lines _ =>
    exact .of_eq ((State.rearmCheck_supervisor ..).trans (State.changeLines_supervisor ..))
      ((State.rearmCheck_label ..).trans (State.changeLines_label ..))
  case cutConfig x =>
    exact .of_eq ((State.pinChanged_supervisor ..).trans (State.setCutoff_supervisor ..))
      ((State.pinChanged_label ..).trans (State.setCutoff_label ..))
  all_goals exact .of_eq

end Sys2Proof.Machine

open Sys2Proof Sys2Proof.Machine

/-- Settles O52: what a work changes of the Timebase and of the Capture Lines stays in its ranges. -/
theorem everyStepKeepsTimebaseAndCaptureRanges : Obligations.EveryStepKeepsTimebaseAndCaptureRanges := by
  unfold Obligations.EveryStepKeepsTimebaseAndCaptureRanges
  intro s t htime hcap hstep
  refine ⟨step_keeps (P := fun u => u.timebase.sound) (fun s t ha h => ha.timebase ▸ h) State.reset_timebase_sound
    (fun _ _ w h => w.keeps_timebase h) htime hstep, ?_⟩
  exact step_keeps (P := State.capturesSound) (fun s t ha h => h.of_eq ha.captures) State.reset_capturesSound
    (fun _ _ w h => w.keeps_capturesSound h) hcap hstep

/-- Settles O58: a work sets a supervisor or a label only where there is none. -/
theorem supervisorAndLabelLastUntilReset : Obligations.SupervisorAndLabelLastUntilReset := by
  unfold Obligations.SupervisorAndLabelLastUntilReset
  intro i s t hi h
  obtain ⟨u, v, hu, hw, hv⟩ := exec_worked hi h
  obtain ⟨supervisor, label⟩ := hw.lasts
  exact ⟨fun m hm => hv.supervisor.trans (supervisor m (hu.supervisor.trans hm)),
    fun l hl => hv.label.trans (label l (hu.label.trans hl))⟩

end

section
/-! PROOF. Reset and the Master Ports: DEVICE_RESET and RESET_RELEASE (R156), the chip-select periods (R157 to R162) and the gate
(R163). -/
namespace Sys2Proof.Machine

/-! ### Requests and commands (R163, R173) -/

/-- A command that a request decodes to is the requester's, and has the request's code. -/
theorem commandOf_spec {m : Master} {code : Byte} {p : List Byte} {i : Instr} (h : commandOf m code p = some i) :
    i.requester = some m ∧ commandCode i = code := by
  unfold commandOf at h
  split at h <;> cases h <;> exact ⟨rfl, BitVec.eq_of_toNat_eq (Eq.symm ‹code.toNat = _›)⟩

theorem commandOf_isSome {m : Master} {code : Byte} {n : Nat} (p : List Byte) (h : commandLength code = some n) :
    (commandOf m code p).isSome = true := by
  unfold commandLength at h
  unfold commandOf
  split at h <;> simp_all


/-- R163, check 3, and what a command without an admission check of its own meets. -/
theorem gate_of_decoded {m : Master} (a : Attachment) {code : Byte} {payload : List Byte} {i : Instr}
    (h : decodeRequest m code payload = some i) :
    gate m a code payload = match admission i a with | some st => .inl st | none => .inr i := by
  have hlength : commandLength code = some payload.length := by
    unfold decodeRequest at h
    split at h
    · assumption
    · cases h
  simp only [gate, hlength, if_true, h] <;> rfl

/-! ### What a command meets at its port -/

/-- A chip-select period that ends at a port that heeds it. -/
theorem State.periodEnds_heeded {s : State} {m : Master} (hr : s.resetHeld = false) (hs : (s.port m).stale = false)
    (f : State → State) : s.periodEnds m f = (f s).setPort m ((f s).port m).deselected := by
  simp only [State.periodEnds, hr, hs, Bool.or_self, Bool.false_eq_true, if_false]

/-- A chip-select period that RESET, held low at its beginning or now, has the port ignore. -/
theorem State.periodEnds_ignored {s : State} {m : Master} (h : (s.resetHeld || (s.port m).stale) = true) (f : State → State) :
    s.periodEnds m f = s.setPort m (s.port m).deselected := by
  simp only [State.periodEnds, h, if_true]

/-- While RESET is low a step changes no port but for the chip-selects it sees. -/
theorem exec_whileReset {i : Instr} {s : State} (hr : s.resetHeld = true) (h1 : i ≠ .deviceReset) (h2 : i ≠ .resetRelease) :
    ∃ t, exec i s = .next t ∧ (t = s ∨ ∃ m selected stale, t = s.setPort m { s.port m with selected, stale }) := by
  have hend (m : Master) (f : State → State) :
      s.periodEnds m f = s.setPort m { s.port m with selected := false, stale := false } :=
    State.periodEnds_ignored (by rw [hr, Bool.true_or]) f
  have hevent (f : State → State) : s.event f = s := by rw [State.event, hr, if_pos rfl]
  have hrequest (m : Master) (i : Instr) (body : State → State × Answer) : s.request m i body = s := by
    rw [State.request, hr, if_pos rfl]
  cases i
  case deviceReset => exact absurd rfl h1
  case resetRelease => exact absurd rfl h2
  case requestFrame m bytes => exact ⟨_, rfl, .inr ⟨m, false, false, hend m _⟩⟩
  case responseRead m clocked => exact ⟨_, rfl, .inr ⟨m, false, false, hend m _⟩⟩
  case requestFirstByte m b => exact ⟨_, rfl, .inr ⟨m, true, (s.port m).stale, by rw [hr, if_pos rfl]⟩⟩
  case responsePlacement m => exact ⟨_, rfl, .inl (hevent _)⟩
  case syncEdge x => exact ⟨_, rfl, .inl (hevent _)⟩
  case tick => exact ⟨_, rfl, .inl (hevent _)⟩
  case servicePeriod => exact ⟨_, rfl, .inl (hevent _)⟩
  case deadlineExpiry e => exact ⟨_, rfl, .inl (hevent _)⟩
  case captureQualification n x => exact ⟨_, rfl, .inl (hevent _)⟩
  case cutoffPinQualification x => exact ⟨_, rfl, .inl (hevent _)⟩
  case actionFiring n => exact ⟨_, rfl, .inl (hevent _)⟩
  case pulseEnd n => exact ⟨_, rfl, .inl (hevent _)⟩
  case deadTimeExpiry p => exact ⟨_, rfl, .inl (hevent _)⟩
  case captureSample n x => exact ⟨_, rfl, .inl (hevent _)⟩
  case cutoffPinSample x => exact ⟨_, rfl, .inl (hevent _)⟩
  case syncSample x => exact ⟨_, rfl, .inl (hevent _)⟩
  all_goals exact ⟨_, exec_command rfl s, .inl (hrequest _ _ _)⟩

/-! ### The end of a request frame, and a response read -/

/-- R159: a valid frame at a port that is not EXECUTING. -/
theorem State.takeFrame_port (s : State) (m : Master) (code : Byte) (payload : List Byte) :
    s.takeFrame m code payload =
      s.setPort m
        { (s.port m).accept with
          execution := some
            (match gate m (s.attachment m) code payload with
            | .inl st => .built ⟨st, code, false, false, false, []⟩
            | .inr i => .taken i) } := by
  unfold State.takeFrame
  dsimp only
  cases gate m (s.attachment m) code payload <;> simp [State.answer, Answer.refusal]

theorem bareReply_code (st : Status) (code : Byte) : bareReply st code = ⟨st, code, false, false, false, []⟩ := rfl

end Sys2Proof.Machine

open Sys2Proof Sys2Proof.Machine

/-- Settles O1: the front of the queue is what the step looks at first. -/
theorem stepTakesTheFrontCommand : Obligations.StepTakesTheFrontCommand := by
  unfold Obligations.StepTakesTheFrontCommand
  intro i rest s h
  unfold step
  rw [h]

/-- Settles O4: at most the chip-selects a port sees change. -/
theorem nothingActsWhileResetIsLow : Obligations.NothingActsWhileResetIsLow := by
  unfold Obligations.NothingActsWhileResetIsLow
  intro i s hr h1 h2
  obtain ⟨t, ht, rfl | ⟨m, selected, stale, rfl⟩⟩ := exec_whileReset hr h1 h2
  · exact ⟨_, ht, rfl, fun _ => rfl⟩
  · refine ⟨_, ht, rfl, fun k => ?_⟩
    rw [State.setPort_port]
    split
    · next hk => rw [hk]
    · rfl

/-- Settles O7: the gate's checks in order, and what a command finds at its port. -/
theorem gateAdmitsOrRefusesACommand : Obligations.GateAdmitsOrRefusesACommand := by
  unfold Obligations.GateAdmitsOrRefusesACommand
  refine ⟨fun m a code payload => ⟨fun h => ?_, fun n h hn => ?_, fun h => ?_, fun i h => ?_⟩, fun i m s hi hr => ⟨?_, ?_⟩⟩
  · simp only [gate, h]
  · simp only [gate, h, if_neg hn]
  · obtain ⟨i, hi⟩ := Option.isSome_iff_exists.mp (commandOf_isSome (m := m) payload h)
    have hdecoded : decodeRequest m code payload = some i := by rw [decodeRequest, if_pos h, hi]
    exact ⟨i, hdecoded, commandOf_spec hi⟩
  · rw [gate_of_decoded a h]
    cases i <;> cases a <;> rfl
  · intro st free ha
    rw [exec_command hi, State.request_refused _ hr free ha]
    rfl
  · intro j hx hj
    rw [exec_command hi, State.request_collides _ hr hx hj]
    rfl

/-- Settles O8: the port's state, then the frame's check, then the gate. -/
theorem requestFrameEndsByThePortsState : Obligations.RequestFrameEndsByThePortsState := by
  unfold Obligations.RequestFrameEndsByThePortsState
  intro m first rest s hr hs hfirst
  have hstep : exec (.requestFrame m (first :: rest)) s =
      .next (s.periodEnds m fun t => t.frameEnds m first (first :: rest)) := by
    have hread : first ≠ Config.readByte := hfirst
    simp only [exec, execRequestFrame, if_neg hread]
  rw [hstep, State.periodEnds_heeded hr hs]
  unfold State.frameEnds
  by_cases hx : (s.port m).state = .executing
  · rw [if_pos hx, if_pos hx, State.setPort_self, State.setPort_setPort]
    rfl
  · rw [if_neg hx, if_neg hx]
    cases frameProblem (first :: rest) with
    | some _ => simp only [State.setPort_self, State.setPort_setPort] <;> rfl
    | none => simp only [State.takeFrame_port, State.setPort_self, State.setPort_setPort] <;> rfl

/-- Settles O9: the reply and what becomes of the slot, by the port's state. -/
theorem responseReadRepliesByThePortsState : Obligations.ResponseReadRepliesByThePortsState := by
  unfold Obligations.ResponseReadRepliesByThePortsState
  intro m clocked s hr hs
  have hstep : exec (.responseRead m clocked) s =
      .next ((s.readResponse m clocked).setPort m ((s.readResponse m clocked).port m).deselected) := by
    simp only [exec, execResponseRead, State.periodEnds_heeded hr hs]
  rw [hstep]
  refine ⟨fun r hstate hslot => ?_, fun x hstate hx => ?_, fun hstate => ?_⟩
  · have hreply : (s.port m).reply = r := by simp only [Port.reply, hstate, hslot]
    simp only [State.readResponse, hstate, hreply, State.setPort_self, State.setPort_setPort]
    split <;> simp [Port.deselected, shiftedOut, *]
  · have hreply : (s.port m).reply = bareReply .pending x.code := by
      cases hslot : (s.port m).slot <;> simp only [Port.reply, hstate, hx, hslot]
    simp only [State.readResponse, hstate, hreply, State.setPort_self, State.setPort_setPort]
    cases x <;> rfl
  · have hreply : (s.port m).reply = bareReply .nothing 0#8 := by
      cases hslot : (s.port m).slot <;> cases hx : (s.port m).execution <;> simp only [Port.reply, hstate, hslot, hx]
    simp only [State.readResponse, hstate, hreply, State.setPort_self, State.setPort_setPort]
    rfl

/-- Settles O3: what DEVICE_RESET gives each block and each port, and what RESET_RELEASE starts. -/
theorem resetGivesResetValuesAndReleaseStarts : Obligations.ResetGivesResetValuesAndReleaseStarts := by
  unfold Obligations.ResetGivesResetValuesAndReleaseStarts
  refine ⟨fun s => ⟨_, rfl, rfl, rfl, fun n => ?_, fun g => ?_, fun e => ?_, fun m => ?_, fun n => ?_, fun l => ?_, fun p => ?_,
    rfl, rfl, rfl, fun m => ?_, fun m => ?_, fun m => ?_, fun m => ?_, fun l => ?_, rfl, rfl, rfl, rfl, rfl⟩, fun s => ?_⟩
  · simp [State.capture, State.reset, CaptureLine.reset, Filter.reset]
  · simp [State.group, State.reset]
  · simp [State.entry, State.reset, Entry.reset]
  · simp [State.queue, State.reset, NoticeQueue.reset]
  · simp [State.action, State.reset]
  · simp [State.line, State.reset, OutputLine.reset]
  · simp [State.pair, State.reset, Pair.reset]
  · simp [State.right, State.reset, Rights.reset, Config.resetQuota]
  · simp [State.port, Port.deviceReset, Port.reset]
  · simp [State.attention, State.attachment, State.port, Port.deviceReset, Port.reset]
  · rfl
  · refine State.electrical_of_float ?_
    simp [State.line, State.reset, OutputLine.reset]
  dsimp only
  refine ⟨fun hr => ⟨⟨BitVec.ofNat 4 s.choice, ?_⟩, fun low => ?_⟩, fun hr => ⟨?_, fun m bytes clocked first hs => ?_⟩⟩
  · have hlow (m : Master) : (BitVec.ofNat 4 s.choice).getLsbD m.val = s.choice.testBit m.val := by
      rw [BitVec.getLsbD_ofNat, decide_eq_true m.isLt, Bool.true_and]
    simp only [exec, execResetRelease, hr, if_true, hlow]
    rfl
  · simp only [exec, execResetRelease, hr, if_true]
    rfl
  · simp only [exec, execResetRelease, hr, Bool.false_eq_true, if_false]
  · have hend (f : State → State) : s.periodEnds m f = s.setPort m { s.port m with selected := false, stale := false } :=
      State.periodEnds_ignored (by rw [hs, Bool.or_true]) f
    refine ⟨by simp [State.sdo, hs], ?_, congrArg _ (hend _), congrArg _ (hend _)⟩
    simp [exec, execRequestFirstByte, Port.firstByte, hr, hs]

/-- Settles O5: the first byte of a period, the SDO pin, and the placement of a response. -/
theorem firstByteAndPlacementMoveThePort : Obligations.FirstByteAndPlacementMoveThePort := by
  unfold Obligations.FirstByteAndPlacementMoveThePort
  refine ⟨fun m b s hr => ?_, fun s m => ?_, fun m s hr => ⟨fun r hx => ?_, fun hx => ?_⟩⟩
  · simp only [exec, execRequestFirstByte, hr, Bool.false_eq_true, if_false, Port.firstByte]
    by_cases h : (s.port m).stale = true ∨ b = 0x80#8
    · rw [if_pos h, if_pos (by simpa [Config.readByte] using h), State.setPort_same]
    · rw [if_neg h, if_neg (by simpa [Config.readByte] using h)]
      cases hstate : (s.port m).state <;> simp
  · unfold State.sdo
    cases s.resetHeld <;> cases (s.port m).stale <;> cases (s.port m).selected <;> rfl
  · simp only [exec, execResponsePlacement, State.event, hr, Bool.false_eq_true, if_false, Port.place, hx]
  · have hplace : (s.port m).place = s.port m := by
      unfold Port.place
      split
      · next r h => exact absurd h (hx r)
      · rfl
      · rfl
    simp only [exec, execResponsePlacement, State.event, hr, Bool.false_eq_true, if_false, hplace, State.setPort_same]

end

section
/-! PROOF. The part left alone: what it has under way, and one reference period (R2, R6, R12, R18, R133, R160). -/
namespace Sys2Proof.Machine

/-! ### What is under way -/

/-- A choice among the events under way and a reference period is one of them. -/
theorem State.ownNext_mem {s : State} {i : Instr} (h : s.ownNext = some i) : i ∈ s.ownEvents := by
  unfold State.ownNext at h
  split at h
  · cases h
  · exact List.mem_of_getElem? h

theorem State.mem_portEvents {s : State} {i : Instr} :
    i ∈ (List.finRange 4).filterMap s.portEvent ↔
      (∃ m, (s.port m).execution = some (.taken i)) ∨
        ∃ m r, (s.port m).execution = some (.built r) ∧ i = .responsePlacement m := by
  have hport (m : Master) : s.portEvent m = some i ↔
      (s.port m).execution = some (.taken i) ∨ ∃ r, (s.port m).execution = some (.built r) ∧ i = .responsePlacement m := by
    unfold State.portEvent
    cases hx : (s.port m).execution with
    | none => simp
    | some x => cases x <;> simp [eq_comm]
  simp only [List.mem_filterMap, List.mem_finRange, true_and, hport, exists_or]

theorem State.mem_scheduleEvent {s : State} {i : Instr} :
    i ∈ s.scheduleEvent.toList ↔
      (∃ n, s.endDue n = true ∧ (∀ k, k < n → s.endDue k = false) ∧ i = .pulseEnd n) ∨
        ∃ n, (∀ k, s.endDue k = false) ∧ s.fireDue n = true ∧ (∀ k, k < n → s.fireDue k = false) ∧ i = .actionFiring n := by
  rw [Option.mem_toList]
  unfold State.scheduleEvent
  cases he : s.nextEnd with
  | some n =>
    obtain ⟨hdue, hfirst⟩ := State.nextEnd_some.mp he
    simp only [Option.some.injEq]
    constructor
    · rintro rfl
      exact .inl ⟨n, hdue, hfirst, rfl⟩
    · rintro (⟨k, hk, hkfirst, rfl⟩ | ⟨k, hnone, -⟩)
      · have hkn : s.nextEnd = some k := State.nextEnd_some.mpr ⟨hk, hkfirst⟩
        rw [Option.some.inj (he.symm.trans hkn)]
      · rw [hnone n] at hdue
        cases hdue
  | none =>
    have hnone := State.nextEnd_none.mp he
    simp only [Option.map_eq_some_iff]
    constructor
    · rintro ⟨n, hn, rfl⟩
      obtain ⟨-, hfire, hfirst⟩ := State.nextFire_some.mp hn
      exact .inr ⟨n, hnone, hfire, hfirst, rfl⟩
    · rintro (⟨k, hk, -⟩ | ⟨k, -, hfire, hfirst, rfl⟩)
      · rw [hnone k] at hk
        cases hk
      · exact ⟨k, State.nextFire_some.mpr ⟨hnone, hfire, hfirst⟩, rfl⟩

theorem State.mem_expiringEntries {s : State} {e : EntryIx} :
    e ∈ s.expiringEntries ↔ ∃ k, (s.entry e).timer = some k ∧ k.expiring = true := by
  simp only [State.expiringEntries, List.mem_filter, List.mem_finRange, true_and, Entry.expiring]
  cases (s.entry e).timer <;> simp

theorem State.mem_ownEvents {s : State} {i : Instr} :
    i ∈ s.ownEvents ↔
      ((∃ m, (s.port m).execution = some (.taken i)) ∨
        ∃ m r, (s.port m).execution = some (.built r) ∧ i = .responsePlacement m) ∨
      (∃ p, s.expiryDue p = true ∧ i = .deadTimeExpiry p) ∨
      ((∃ n, s.endDue n = true ∧ (∀ k, k < n → s.endDue k = false) ∧ i = .pulseEnd n) ∨
        ∃ n, (∀ k, s.endDue k = false) ∧ s.fireDue n = true ∧ (∀ k, k < n → s.fireDue k = false) ∧ i = .actionFiring n) ∨
      ∃ e k, (s.entry e).timer = some k ∧ k.expiring = true ∧ i = .deadlineExpiry e := by
  simp only [State.ownEvents, List.mem_append, State.mem_portEvents, State.mem_scheduleEvent, List.mem_map, List.mem_filter,
    List.mem_finRange, true_and, State.mem_expiringEntries, or_assoc, eq_comm (a := i), exists_and_right, ← and_assoc]

/-! ### One reference period -/

/-- The dividers count, and what comes of it waits in some order. -/
theorem State.referencePeriod_events (s : State) :
    ∃ arbiter events, events.Perm s.periodEvents ∧
      s.referencePeriod = { s.countPeriods with arbiter := arbiter, pending := s.pending ++ events } := by
  unfold State.referencePeriod
  dsimp only
  split
  · next h => exact ⟨s.arbiter, [], by rw [h], by rw [List.append_nil]; rfl⟩
  · next i h => exact ⟨s.arbiter, [i], by rw [h], rfl⟩
  · next i j rest h => exact ⟨s.arbiter.tail, _, by rw [h]; exact arrange_perm _ _, rfl⟩

theorem countPeriod_fst (limit n : Nat) : (countPeriod limit n).1 = if limit ≤ n + 1 then 0 else n + 1 := by
  unfold countPeriod
  split <;> rfl

theorem countPeriod_snd (limit n : Nat) : (countPeriod limit n).2 = true ↔ limit ≤ n + 1 := by
  unfold countPeriod
  split <;> simp [*]

theorem State.mem_periodEvents {s : State} {i : Instr} :
    i ∈ s.periodEvents ↔
      (i = .tick ∧ s.timebase.run = .running ∧ s.timebase.prescale ≤ s.timebase.divider + 1) ∨
      (i = .servicePeriod ∧ 5000 ≤ s.timebase.serviceDivider + 1) ∨
      (∃ n : CapLine, i = .captureSample n s.capPins[n] ∧
        (s.capture n).filter.interval ≤ (s.capture n).filter.divider + 1) ∨
      (i = .cutoffPinSample s.cutoffPin ∧ s.cutoff.filter.interval ≤ s.cutoff.filter.divider + 1) ∨
      i = .syncSample s.syncPin := by
  have hone {p : Prop} [Decidable p] {x : Instr} : i ∈ (if p then [x] else []) ↔ i = x ∧ p := by
    split <;> simp [*]
  simp only [State.periodEvents, List.mem_append, hone, List.mem_map, List.mem_filter, List.mem_finRange, true_and,
    countPeriod_snd, List.mem_singleton, or_assoc, eq_comm (b := i), Config.servicePeriod, and_comm (b := i = _)]

theorem State.periodEvents_nodup (s : State) : s.periodEvents.Nodup := by
  have hsamples (p : CapLine → Bool) :
      (((List.finRange 16).filter p).map fun n => Instr.captureSample n s.capPins[n]).Nodup :=
    ((List.nodup_finRange 16).filter p).map fun a b h => by
      injection h
  have hone {p : Prop} [Decidable p] (x : Instr) : (if p then [x] else []).Nodup := by
    split <;> simp
  unfold State.periodEvents
  simp only [List.nodup_append, hsamples, hone, List.nodup_singleton, List.mem_append, List.mem_ite_nil_right, List.mem_map,
    List.mem_singleton, true_and, ne_eq, forall_eq, forall_exists_index, and_imp]
  refine ⟨⟨⟨?_, ?_⟩, ?_⟩, ?_⟩
  · intro a _ _ ha b _ hb
    simp [ha, hb]
  · rintro a (⟨-, rfl⟩ | ⟨-, rfl⟩) b n - rfl <;> simp
  · rintro a ((⟨-, rfl⟩ | ⟨-, rfl⟩) | ⟨n, -, rfl⟩) b - rfl <;> simp
  · rintro a (((⟨-, rfl⟩ | ⟨-, rfl⟩) | ⟨n, -, rfl⟩) | ⟨-, rfl⟩) <;> simp

end Sys2Proof.Machine

open Sys2Proof Sys2Proof.Machine

/-- Settles O2: what the empty queue leaves to choose, what is under way, and what a reference period counts and brings on. -/
theorem idlePartDoesItsOwnEventsOrAPeriod : Obligations.IdlePartDoesItsOwnEventsOrAPeriod := by
  unfold Obligations.IdlePartDoesItsOwnEventsOrAPeriod
  refine ⟨fun s hp => ⟨fun hnone => ?_, fun hsome => ?_⟩, fun s i => ?_, fun s => ?_⟩
  · have hstate : s.ownState = s := by simp [State.ownState, hnone]
    simp only [step, hp, State.ownNext, hnone, List.isEmpty_nil, if_true, hstate, State.passPeriod, State.event]
  · have hstate : s.ownState = s.spendChoice := by simp [State.ownState, hsome]
    simp only [step, hp, hstate]
    cases hnext : s.ownNext with
    | some i => exact .inl ⟨i, State.ownNext_mem hnext, rfl⟩
    | none => exact .inr rfl
  · dsimp only
    rw [State.mem_ownEvents]
    simp only [← State.endDue_iff, ← State.fireDue_iff, State.expiryDue_iff, Bool.not_eq_true, or_assoc]
    simp only [← exists_and_right, ← exists_and_left, and_assoc]
  · obtain ⟨arbiter, events, hperm, heq⟩ := s.referencePeriod_events
    refine ⟨arbiter, events, ?_, hperm.nodup_iff.mpr s.periodEvents_nodup, fun n => ?_, fun i => ?_⟩
    · rw [heq]
      simp only [State.countPeriods, Timebase.countPeriod, Filter.countPeriod, countPeriod_fst, Config.servicePeriod]
    · rw [heq]
      simp only [State.countPeriods, State.capture, Filter.countPeriod, countPeriod_fst, Fin.getElem_fin, Vector.getElem_ofFn]
      rfl
    · rw [hperm.mem_iff, State.mem_periodEvents]

end

section
/-! PROOF. Attachment: ATTACH, RESUME, SUSPEND and DETACH (R164 to R168). -/
namespace Sys2Proof.Machine

/-- R69, R70, R168: what is handed on when a master comes in, by the entries' statuses. -/
theorem State.attachedReactions_afterAll {s t : State} (entries : t.entries = s.entries) (m : Master) (now : Timestamp) :
    t.afterAll
      ((((List.finRange 24).filter fun e =>
          (s.entry e).status == .held && (s.entry e).destinations.getLsbD m.val).map fun e u => u.attempt e now) ++
        [fun u => u.edgeEvent 23 now (.attachChange m .attached)]) (t.attachedReactions m now) := by
  have hheld : t.heldFor m =
      (List.finRange 24).filter fun e => (s.entry e).status == .held && (s.entry e).destinations.getLsbD m.val := by
    simp only [State.heldFor, State.entry, entries]
  rw [← hheld]
  exact t.inAnyOrder_afterAll _

end Sys2Proof.Machine

open Sys2Proof Sys2Proof.Machine

/-- Settles O10: ATTACH and RESUME change the attachment state first, then hand on what the entries held. -/
theorem attachAndResumeBringAMasterIn : Obligations.AttachAndResumeBringAMasterIn := by
  unfold Obligations.AttachAndResumeBringAMasterIn
  refine ⟨fun m s h => ⟨_, exec_answers rfl h ?_, State.attachedReactions_afterAll (by simp) m s.now⟩,
    fun m s h => ⟨_, exec_answers rfl h ?_, State.attachedReactions_afterAll (by simp) m s.now⟩⟩
  · simp only [blockOf, takeAttach, State.front_now, State.front_supervisor]
    rfl
  · simp only [blockOf, takeResume, State.standing, State.front_now, State.attachedReactions_now, State.setAttachment_now]
    rfl

/-- Settles O11: E23 is not delivered to the suspended master, so its queue stays. -/
theorem suspendFreezesAMaster : Obligations.SuspendFreezesAMaster := by
  unfold Obligations.SuspendFreezesAMaster
  intro m s h
  have hsuspended : ((s.front m).setAttachment m .suspended).attachment m = .suspended := by
    rw [State.setAttachment_attachment, if_pos rfl]
  have hqueue : (((s.front m).setAttachment m .suspended).edgeEvent 23 s.now (.attachChange m .suspended)).queue m =
      s.queue m := by
    rw [State.edgeEvent_queue, if_neg]
    · simp
    · rintro ⟨-, hc⟩
      have hd := ((State.deliverable_iff _ _ _).mp (State.choose_deliverable hc)).2
      rw [hsuspended] at hd
      cases hd
  refine ⟨_, exec_answers rfl h ?_, rfl, hqueue, ?_, fun e => ?_, by simp, by simp⟩
  · simp only [blockOf, takeSuspend, State.attachChange, attachEntry, State.standing, State.front_now, State.depth, hqueue,
      State.edgeEvent_now, State.setAttachment_now]
    rfl
  · rw [State.attention, State.edgeEvent_attachment, hsuspended]
    rfl
  · rw [State.edgeEvent_entry]
    split
    · next he => rw [he.1]; simp
    · simp

/-- Settles O12: the teardown, then what it hands on. -/
theorem detachTearsAMasterDown : Obligations.DetachTearsAMasterDown := by
  unfold Obligations.DetachTearsAMasterDown
  intro m s h
  refine ⟨fun hd => exec_answers rfl h ?_, fun hd => ?_⟩
  · simp only [blockOf, takeDetach, State.front_attachment, hd, if_true, State.detachAnswer, State.front_now]
    rfl
  · refine ⟨_, exec_answers rfl h ?_, State.inAnyOrder_afterAll _ _⟩
    simp only [blockOf, takeDetach, State.front_attachment, hd, if_false, State.detachAnswer, State.front_now,
      State.front_wholePairs, State.front_ownedLines, State.front_countRecords, State.tearDown, State.detachHandOffs,
      State.awaitingEntries, State.front_entry, State.front_anyCut, State.front_queue, Bool.and_true]
    rfl

end

section
/-! PROOF. The Timebase: TB_CONFIG, TB_RUN and TB_HOLD, the resync, the tick and the dead times it counts. -/
namespace Sys2Proof.Machine

/-! ### TB_CONFIG (R9 to R11) -/

theorem selected_eq_none {α : Type} {chosen : Bool} {v : Option α} :
    selected chosen v = none ↔ chosen = true ∧ v = none := by
  unfold selected
  cases chosen <;> cases v <;> simp

/-- A selected setting was decoded; one that is not selected is left alone. -/
theorem selected_eq_some {α : Type} {chosen : Bool} {v w : Option α} {x : α} (h : selected chosen v = some w)
    (decoded : v ≠ none → v = some x) : w = if chosen then some x else none := by
  unfold selected at h
  cases chosen
  · cases h; rfl
  · obtain ⟨y, rfl, rfl⟩ := Option.map_eq_some_iff.mp h
    exact decoded (by simp)

theorem timebaseSettingsOf_none {f : TbFields} :
    timebaseSettingsOf f = none ↔
      f.select.toNat = 0 ∨ 16 ≤ f.select.toNat ∨
        (f.select.getLsbD 0 = true ∧ ¬(1 ≤ f.prescale.toNat ∧ f.prescale.toNat ≤ 256)) ∨
        (f.select.getLsbD 1 = true ∧ f.framePeriod.toNat = 1) ∨ (f.select.getLsbD 2 = true ∧ 3 ≤ f.syncMode.toNat) := by
  rw [← prescaleOf_none, ← framePeriodOf_none, ← syncModeOf_none, ← selected_eq_none, ← selected_eq_none, ← selected_eq_none,
    ← or_assoc, timebaseSettingsOf]
  split
  · next h => simp [h]
  · next h =>
    have hv : selected (f.select.getLsbD 3) (some f.resyncValue) ≠ none := fun hn => by
      cases (selected_eq_none.mp hn).2
    simp only [h, false_or]
    cases selected (f.select.getLsbD 0) (prescaleOf f.prescale) <;>
      cases selected (f.select.getLsbD 1) (framePeriodOf f.framePeriod) <;>
      cases selected (f.select.getLsbD 2) (syncModeOf f.syncMode) <;>
      cases hr : selected (f.select.getLsbD 3) (some f.resyncValue) <;> simp_all

/-- The sync mode a byte below 3 names. -/
def syncModeNamed (b : Byte) : SyncMode := if b = 0#8 then .off else if b = 1#8 then .rising else .falling

theorem prescaleOf_eq {w : BitVec 16} (h : prescaleOf w ≠ none) : prescaleOf w = some w.toNat := by
  obtain ⟨x, hx⟩ := Option.ne_none_iff_exists'.mp h
  rw [hx, prescaleOf_some hx]

theorem framePeriodOf_eq {w : BitVec 24} (h : framePeriodOf w ≠ none) : framePeriodOf w = some w.toNat := by
  unfold framePeriodOf at h ⊢
  split at h
  · exact absurd rfl h
  · next hn => rw [if_neg hn]

theorem syncModeOf_eq {b : Byte} (h : syncModeOf b ≠ none) :
    syncModeOf b = some (syncModeNamed b) := by
  have hb : b.toNat < 3 := by rwa [ne_eq, syncModeOf_none, not_le] at h
  have hcases : b = 0#8 ∨ b = 1#8 ∨ b = 2#8 := by
    have key : b.toNat = 0 ∨ b.toNat = 1 ∨ b.toNat = 2 := by omega
    exact key.imp BitVec.eq_of_toNat_eq (Or.imp BitVec.eq_of_toNat_eq BitVec.eq_of_toNat_eq)
  rcases hcases with rfl | rfl | rfl <;> rfl

theorem timebaseSettingsOf_some {f : TbFields} {c : TimebaseSettings} (h : timebaseSettingsOf f = some c) :
    c = { prescale := if f.select.getLsbD 0 then some f.prescale.toNat else none
          framePeriod := if f.select.getLsbD 1 then some f.framePeriod.toNat else none
          syncMode := if f.select.getLsbD 2 then some (syncModeNamed f.syncMode) else none
          resyncValue := if f.select.getLsbD 3 then some f.resyncValue else none } := by
  unfold timebaseSettingsOf at h
  split at h
  · cases h
  · split at h
    · next hp hfp hm hv =>
      cases h
      rw [selected_eq_some hp prescaleOf_eq, selected_eq_some hfp framePeriodOf_eq, selected_eq_some hm syncModeOf_eq,
        selected_eq_some hv fun _ => rfl]
    · cases h

/-- R9 to R11: what the settings selected make of the Timebase. -/
theorem Timebase.configure_eq (t : Timebase) (c : TimebaseSettings) :
    t.configure c =
      { t with
        prescale := c.prescale.getD t.prescale
        framePeriod := if t.framePeriod = 0 then c.framePeriod.getD t.framePeriod else t.framePeriod
        phase := if c.framePeriod.isSome ∧ t.framePeriod = 0 then 0 else t.phase
        staged := if c.framePeriod.isSome ∧ t.framePeriod ≠ 0 then c.framePeriod else t.staged
        syncMode := c.syncMode.getD t.syncMode
        resyncValue := c.resyncValue.getD t.resyncValue } := by
  unfold Timebase.configure
  cases c.framePeriod with
  | none => simp
  | some p => by_cases h : t.framePeriod = 0 <;> simp [Timebase.writePeriod, Timebase.framing, h]

/-- R9, R10: the settings that TB_CONFIG writes, by its select byte. -/
theorem Timebase.configure_selected {f : TbFields} {c : TimebaseSettings} (h : timebaseSettingsOf f = some c) (t : Timebase) :
    t.configure c =
      { t with
        prescale := if f.select.getLsbD 0 then f.prescale.toNat else t.prescale
        framePeriod := if f.select.getLsbD 1 ∧ t.framePeriod = 0 then f.framePeriod.toNat else t.framePeriod
        phase := if f.select.getLsbD 1 ∧ t.framePeriod = 0 then 0 else t.phase
        staged := if f.select.getLsbD 1 ∧ t.framePeriod ≠ 0 then some f.framePeriod.toNat else t.staged
        syncMode := if f.select.getLsbD 2 then syncModeNamed f.syncMode else t.syncMode
        resyncValue := if f.select.getLsbD 3 then f.resyncValue else t.resyncValue } := by
  have hget {α : Type} (b : Bool) (x y : α) : (if b then some x else none).getD y = if b then x else y := by cases b <;> rfl
  rw [Timebase.configure_eq, timebaseSettingsOf_some h]
  simp only [hget]
  cases f.select.getLsbD 1 <;> by_cases h0 : t.framePeriod = 0 <;> simp [h0]

/-- R7. -/
theorem Timebase.toRunning_eq (t : Timebase) :
    t.toRunning = { t with run := .running, divider := if t.run = .halted then 0 else t.divider } := by
  obtain ⟨run⟩ := t
  cases run <;> rfl

/-- R8. -/
theorem Timebase.toHalted_eq (t : Timebase) :
    t.toHalted = { t with run := .halted, divider := if t.run = .running then 0 else t.divider } := by
  obtain ⟨run⟩ := t
  cases run <;> rfl

/-! ### Resync and tick (R3, R4, R12, R13) -/

/-- R12: an edge that the sync mode takes. -/
theorem Timebase.syncEdge_iff (t : Timebase) (x : Level) :
    t.syncEdge x = true ↔
      x ≠ t.syncSample ∧ ((t.syncMode = .rising ∧ x = .high) ∨ (t.syncMode = .falling ∧ x = .low)) := by
  unfold Timebase.syncEdge
  rw [Bool.and_eq_true, bne_iff_ne]
  refine and_congr_right fun _ => ?_
  cases t.syncMode <;> cases x <;> simp [SyncMode.qualifies]

/-- R13: the reload, the shift of the records, then E21 with the new timestamp and the old count. -/
theorem State.resync_eq (s : State) :
    s.resync =
      ((s.setTimebase s.timebase.reload).rebase s.timebase.count s.timebase.resyncValue).edgeEvent resyncEntry
        ⟨s.timebase.epoch + 1, s.timebase.resyncValue⟩ (.resync s.timebase.count) := rfl

/-- R12: one sample of the SYNC pin. -/
theorem State.sampleSync_eq (s : State) (x : Level) :
    s.sampleSync x =
      if s.timebase.syncEdge x then
        State.resync { s with syncPin := x, timebase := { s.timebase with syncSample := x } }
      else { s with syncPin := x, timebase := { s.timebase with syncSample := x } } := rfl

/-- Steps of the part taken one after the other, while RESET is not held low. -/
theorem foldl_exec {g : State → Instr → State} (hg : ∀ u i v, exec i u = .next v → g u i = v) {β : Type} {i : β → Instr}
    {f : State → β → State} (hexec : ∀ u b, exec (i b) u = .next (u.event (f · b)))
    (hreset : ∀ u b, (f u b).resetHeld = u.resetHeld) (l : List β) {s : State} (hr : s.resetHeld = false) :
    (l.map i).foldl g s = l.foldl f s ∧ (l.foldl f s).resetHeld = false := by
  induction l generalizing s with
  | nil => exact ⟨rfl, hr⟩
  | cons b l ih =>
    have hstep : g s (i b) = f s b := hg _ _ _ (by rw [hexec, State.event, hr, if_neg Bool.false_ne_true])
    simp only [List.map_cons, List.foldl_cons, hstep]
    exact ih ((hreset s b).trans hr)

/-- R94, R98: what an announced count has left, as steps of the part. -/
theorem State.settle_eq_steps {g : State → Instr → State} (hg : ∀ u i v, exec i u = .next v → g u i = v) {s : State}
    (hr : s.resetHeld = false) :
    s.settle =
      ((List.finRange 4).map Instr.deadTimeExpiry ++ (List.finRange 32).map Instr.pulseEnd ++
        (List.finRange 32).map Instr.actionFiring).foldl g s := by
  rw [State.settle_eq_takeAll, List.foldl_append, List.foldl_append]
  obtain ⟨h1, r1⟩ := foldl_exec hg (f := State.expireDeadTime) (i := .deadTimeExpiry) (fun _ _ => rfl) (by simp) (List.finRange 4) hr
  obtain ⟨h2, r2⟩ := foldl_exec hg (f := State.takeEnd) (i := .pulseEnd) (fun _ _ => rfl) (by simp) (List.finRange 32) r1
  obtain ⟨h3, -⟩ := foldl_exec hg (f := State.takeFire) (i := .actionFiring) (fun _ _ => rfl) (by simp) (List.finRange 32) r2
  rw [h1, h2, h3]
  rfl

theorem Timebase.advance_eq (t : Timebase) :
    (t.wraps = true → t.advance =
      { t with
        divider := 0
        count := t.count + 1
        phase := 0
        framePeriod := t.staged.getD t.framePeriod
        staged := none
        announced := ⟨t.epoch, t.count + 1⟩ }) ∧
    (t.wraps = false → t.advance =
      { t with
        divider := 0
        count := t.count + 1
        phase := if t.framePeriod = 0 then 0 else t.phase + 1
        announced := ⟨t.epoch, t.count + 1⟩ }) := by
  unfold Timebase.advance
  refine ⟨fun h => by simp only [h, if_true], fun h => ?_⟩
  by_cases h0 : t.framePeriod = 0 <;> simp [h, h0, Timebase.framing]

theorem Timebase.wraps_iff (t : Timebase) : t.wraps = true ↔ t.framePeriod ≠ 0 ∧ t.phase + 1 = t.framePeriod := by
  simp [Timebase.wraps, Timebase.framing]

end Sys2Proof.Machine

open Sys2Proof Sys2Proof.Machine

/-- Settles O15: the checks of TB_CONFIG in order, then the settings it selects. -/
theorem tbConfigWritesTheSelectedSettings : Obligations.TbConfigWritesTheSelectedSettings := by
  unfold Obligations.TbConfigWritesTheSelectedSettings
  intro m f s h
  have block : blockOf (.tbConfig m f) = takeTbConfig m f := rfl
  split
  · next hr => exact exec_refuses rfl h (by simp [block, takeTbConfig, hr])
  next hr =>
  split
  · next hbad =>
    refine exec_refuses rfl h ?_
    have hnone := timebaseSettingsOf_none.mpr hbad
    simp [block, takeTbConfig, hr, hnone]
  next hgood =>
  rw [← timebaseSettingsOf_none] at hgood
  obtain ⟨c, hc⟩ := Option.ne_none_iff_exists'.mp hgood
  have hval := timebaseSettingsOf_some hc
  have hprescale : c.prescale.isSome = f.select.getLsbD 0 := by rw [hval]; cases f.select.getLsbD 0 <;> rfl
  have hright : (!(s.right m).timebase) = false := by simpa using hr
  split
  · next hrun =>
    refine exec_refuses rfl h ?_
    simp [block, takeTbConfig, hright, hc, hprescale, hrun.1, hrun.2]
  · next hrun =>
    have hrun' : (c.prescale.isSome && s.timebase.run == .running) = false := by
      rw [hprescale, Bool.eq_false_iff, ne_eq, Bool.and_eq_true, beq_iff_eq]
      exact hrun
    refine exec_answers rfl h ?_
    simp only [block, takeTbConfig, State.front_right, hright, hc, State.front_timebase, hrun', Bool.false_eq_true, if_false,
      Timebase.configure_selected hc, syncModeNamed]

/-- Settles O14: TB_RUN, and TB_HOLD after what the last announced count has left. -/
theorem tbRunAndTbHoldSetTheRunState : Obligations.TbRunAndTbHoldSetTheRunState := by
  unfold Obligations.TbRunAndTbHoldSetTheRunState
  refine fun m s => ⟨fun h => ?_, fun h => ?_⟩
  · split
    · next hr =>
      refine exec_answers rfl h ?_
      simp only [blockOf, takeTbRun, State.front_right, hr, if_true, State.front_timebase, Timebase.toRunning_eq]
      rfl
    · next hr => exact exec_refuses rfl h (by simp [blockOf, takeTbRun, hr])
  · split
    · next hr =>
      refine exec_answers rfl h ?_
      simp only [blockOf, takeTbHold, State.front_right, hr, if_true, State.settle_timebase, State.front_timebase, Timebase.toHalted_eq]
      rfl
    · next hr => exact exec_refuses rfl h (by simp [blockOf, takeTbHold, hr])

/-- Settles O16: the reload, the shift of the records, and E21; a sample of the SYNC pin that shows a qualifying edge starts one. -/
theorem resyncReloadsTheCount : Obligations.ResyncReloadsTheCount := by
  unfold Obligations.ResyncReloadsTheCount
  refine ⟨fun s => ⟨?_, fun n => ?_, ?_⟩, fun m s h => ?_, fun x s hr => ?_⟩
  · rw [State.resync_eq]
    rw [State.edgeEvent_timebase]
    rfl
  · have hact : s.resync.action n = (s.action n).map fun r => r.shift (s.timebase.resyncValue - s.timebase.count) := by
      rw [State.resync_eq, State.action, State.edgeEvent_actions]
      exact State.rebase_action ..
    rw [hact]
    cases s.action n <;> rfl
  · refine ⟨(s.setTimebase s.timebase.reload).rebase s.timebase.count s.timebase.resyncValue, ?_, ?_, rfl, rfl⟩
    · rw [State.resync_eq]
      rw [State.edgeEvent_timebase]
    · rw [State.resync_eq]
      rw [State.edgeEvent_actions]
  · split
    · next hright =>
      refine exec_answers rfl h ?_
      have hnow : (s.front m).resync.now = ⟨s.timebase.epoch + 1, s.timebase.resyncValue⟩ := by
        rw [State.resync_eq]
        rw [State.edgeEvent_now, ← State.front_timebase s m]
        rfl
      simp only [blockOf, takeTbResync, State.front_right, hright, if_true, State.front_timebase, hnow]
    · next hright => exact exec_refuses rfl h (by simp [blockOf, takeTbResync, hright])
  · dsimp only
    rw [← Timebase.syncEdge_iff]
    have hsample : exec (.syncSample x) s = .next (s.sampleSync x) := congrArg _ (State.event_released _ hr)
    have hedge : exec (.syncEdge x) s = .next (if s.timebase.syncEdge x then s.sampleSync x else s) :=
      congrArg _ (State.event_released _ hr)
    rw [hsample, hedge, State.sampleSync_eq]
    exact ⟨fun h => ⟨by rw [if_pos h], by rw [if_pos h, if_pos h]⟩, fun h => ⟨by rw [if_neg h], by rw [if_neg h]⟩⟩

/-- Settles O17: what the last count left, the advance, and the FRAME event of a wrap. -/
theorem tickAdvancesCountAndPhase : Obligations.TickAdvancesCountAndPhase := by
  unfold Obligations.TickAdvancesCountAndPhase
  refine fun s hr => ⟨State.settle_settled, ?_, fun hh => ?_, fun hrun => ?_⟩
  · exact State.settle_eq_steps (fun u i v h => by simp only [h]) hr
  · refine ⟨State.settle_settled (State.settled_halted hh), ?_⟩
    simp [exec, execTick, State.event, hr, hh]
  · dsimp only
    simp only [← Timebase.wraps_iff, Bool.not_eq_true]
    refine ⟨s.settle.setTimebase s.settle.timebase.advance,
      if s.settle.timebase.wraps then
        (s.settle.setTimebase s.settle.timebase.advance).edgeEvent 20 ⟨s.settle.timebase.epoch, s.settle.timebase.count + 1⟩
          .frame
      else s.settle.setTimebase s.settle.timebase.advance,
      rfl, (Timebase.advance_eq _).1, (Timebase.advance_eq _).2, fun h => if_pos h, fun h => if_neg (by rw [h]; exact Bool.false_ne_true), ?_⟩
    simp only [exec, execTick, State.event, hr, hrun, Bool.false_eq_true, if_false, if_true]
    rfl

/-- Settles O18: a tick counts every dead time; its last tick is announced, and the expiry is a step of its own. -/
theorem deadTimeRunsOutTickByTick : Obligations.DeadTimeRunsOutTickByTick := by
  unfold Obligations.DeadTimeRunsOutTickByTick
  refine ⟨fun s p => ⟨rfl, ?_⟩, fun p s hr => ?_⟩
  · rw [State.tickDeadTimes_pair]
    cases (s.pair p).record <;> rfl
  · have hexec : exec (.deadTimeExpiry p) s = .next (s.expireDeadTime p) :=
      congrArg _ (State.event_released _ hr)
    rw [hexec]
    unfold State.expireDeadTime State.expiryDue Pair.expiring Pair.expire
    cases s.timebase.run
    · rfl
    · cases (s.pair p).record with
      | none => rfl
      | some r =>
        obtain ⟨side, n, expiring⟩ := r
        cases side <;> cases expiring <;> rfl

end

section
/-! PROOF. The Capture Lines and the Group Monitor: samples, qualified changes, CAP_CONFIG, CAP_GATE, GROUP_CONFIG and CAP_READ. -/
namespace Sys2Proof.Machine

/-! ### The filter (R17 to R19) -/

theorem Filter.qualifies_iff {f : Filter} {x : Level} :
    f.qualifies x = true ↔ f.loaded = true ∧ x ≠ f.level ∧ f.length ≤ f.run := by
  simp [Filter.qualifies, and_assoc]

theorem Filter.take_qualified {f : Filter} {x : Level} (h : f.qualifies x = true) :
    f.take x = { f with divider := 0, sample := x, level := x, run := 0 } := by
  obtain ⟨hl, hx, hr⟩ := Filter.qualifies_iff.mp h
  simp [Filter.take, hl, hx, hr]

theorem Filter.take_unloaded {f : Filter} {x : Level} (h : f.loaded = false) :
    f.take x = { f with divider := 0, sample := x, level := x, run := 0, loaded := true } := by
  simp [Filter.take, h]

theorem Filter.take_steady {f : Filter} {x : Level} (hl : f.loaded = true) (hx : x = f.level) :
    f.take x = { f with divider := 0, sample := x, run := 0 } := by
  simp [Filter.take, hl, hx]

theorem Filter.take_counted {f : Filter} {x : Level} (hl : f.loaded = true) (hx : x ≠ f.level) (hr : f.run < f.length) :
    f.take x = { f with divider := 0, sample := x, run := f.run + 1 } := by
  have hr' : ¬f.length ≤ f.run := Nat.not_le.mpr hr
  simp [Filter.take, hl, hx, hr']

theorem EdgeSelect.matching_iff (e : EdgeSelect) (x : Level) :
    e.matching x = true ↔ e = .both ∨ (e = .rising ∧ x = .high) ∨ (e = .falling ∧ x = .low) := by
  cases e <;> cases x <;> simp [EdgeSelect.matching]

/-! ### One sample (R17 to R19) -/

theorem exec_captureSample {s : State} (hr : s.resetHeld = false) (n : CapLine) (x : Level) :
    exec (.captureSample n x) s = .next (s.sampleCapture n x) := congrArg _ (State.event_released _ hr)

theorem exec_captureQualification {s : State} (hr : s.resetHeld = false) (n : CapLine) (x : Level) :
    exec (.captureQualification n x) s =
      .next (if (s.capture n).filter.qualifies x then s.sampleCapture n x else s) := congrArg _ (State.event_released _ hr)

/-- The line after a sample that completes qualification, as the qualifier finds it. -/
def CaptureLine.changed (c : CaptureLine) (x : Level) : CaptureLine :=
  { c with filter := { c.filter with divider := 0, sample := x, level := x, run := 0 } }

theorem State.sampleCapture_qualified {s : State} {n : CapLine} {x : Level} (h : (s.capture n).filter.qualifies x = true) :
    s.sampleCapture n x = (s.sampled n x).qualifiedChange n s.now ∧
      (s.sampled n x).capture n = (s.capture n).changed x := by
  refine ⟨by rw [State.sampleCapture_eq, if_pos h], ?_⟩
  rw [State.sampled_capture, Filter.take_qualified h]
  rfl

/-- What a qualified change makes of its line (R22 to R25, R27). -/
theorem State.sampleCapture_capture {s : State} {n : CapLine} {x : Level} (h : (s.capture n).filter.qualifies x = true)
    (k : CapLine) :
    (s.sampleCapture n x).capture k =
      if k = n then
        if ((s.capture n).changed x).qualify.2.isSome then ((s.capture n).changed x).qualify.1.stamp s.now
        else ((s.capture n).changed x).qualify.1
      else s.capture k := by
  rw [State.capture, State.sampleCapture_captures s n x h, Filter.take_qualified h]
  exact State.setCapture_capture s n _ k

/-- What the qualifier, the gate and the prescaler make of a change, case by case (R22 to R25). -/
theorem CaptureLine.qualify_level {c : CaptureLine} (hm : c.mode = .level) :
    c.qualify = (c, some (if c.filter.level = c.activeLevel then .assertion else .deassertion)) := by
  simp [CaptureLine.qualify, CaptureLine.levelEvent, CaptureLine.asserted, hm]

theorem CaptureLine.qualify_unmatched {c : CaptureLine} (hm : c.mode = .edge)
    (hn : c.edgeSelect.matching c.filter.level = false) : c.qualify = (c, none) := by
  simp [CaptureLine.qualify, hm, hn]

theorem CaptureLine.qualify_gated {c : CaptureLine} (hm : c.mode = .edge) (he : c.gateEnable = true) (hg : c.gate = .closed) :
    c.qualify = (c, none) := by
  simp [CaptureLine.qualify, hm, he, hg]

theorem CaptureLine.qualify_counted {c : CaptureLine} (hm : c.mode = .edge)
    (hmatch : c.edgeSelect.matching c.filter.level = true) (hg : c.gateEnable = true → c.gate = .opened) :
    (c.prescalerCount + 1 < c.prescale → c.qualify = ({ c with prescalerCount := c.prescalerCount + 1 }, none)) ∧
      (c.prescale ≤ c.prescalerCount + 1 →
        c.qualify =
          ({ c with prescalerCount := 0, gate := if c.gateEnable then .closed else c.gate },
            some (.edge (c.prescalerCount + 1)))) := by
  have hgate : (c.gateEnable && c.gate == .closed) = false := by
    cases he : c.gateEnable
    · rfl
    · rw [hg he]; rfl
  have hq : c.qualify = c.countEdge := by simp [CaptureLine.qualify, hm, hmatch, hgate]
  rw [hq, CaptureLine.countEdge]
  exact ⟨fun h => if_neg (Nat.not_le.mpr h), fun h => if_pos h⟩

/-- The hand-offs of a qualified change, by the capture event. -/
theorem State.qualifiedChange_afterAll (s : State) (n : CapLine) (t : Timestamp) :
    (s.setCapture n ((s.qualifiedChange n t).capture n)).afterAll
      (s.groupHandOffs n t ++
        match (s.capture n).qualify.2 with
        | none => []
        | some v => s.eventHandOffs n t v) (s.qualifiedChange n t) := by
  have hline : (s.qualifiedChange n t).capture n =
      if (s.capture n).qualify.2.isSome then (s.capture n).qualify.1.stamp t else (s.capture n).qualify.1 := by
    rw [State.capture, State.qualifiedChange_captures]
    exact (State.setCapture_capture ..).trans (if_pos rfl)
  rw [hline]
  unfold State.qualifiedChange
  rcases (s.capture n).qualify with ⟨c, _ | v⟩
  · simp only [Option.isSome_none, Bool.false_eq_true, if_false, List.append_nil]
    exact State.inAnyOrder_afterAll _ _
  · exact State.inAnyOrder_afterAll _ _

end Sys2Proof.Machine

open Sys2Proof Sys2Proof.Machine

/-- Settles O19: the first sample is loaded; a later one is compared, and a change that qualifies is the qualification event. -/
theorem captureSampleFilters : Obligations.CaptureSampleFilters := by
  unfold Obligations.CaptureSampleFilters
  intro n x s hr
  dsimp only
  rw [exec_captureSample hr, exec_captureQualification hr, State.sampleCapture_eq]
  have hsampled : s.sampled n x = { s.setCapture n { s.capture n with filter := (s.capture n).filter.take x } with
    capPins := s.capPins.set n x } := rfl
  refine ⟨fun hl hx => ?_, fun hl hx hrun => ?_, fun hl hx hrun => ?_, fun hl => ?_, fun h => ?_⟩
  · have hq : ¬(s.capture n).filter.qualifies x = true := fun hq => (Filter.qualifies_iff.mp hq).2.1 hx
    rw [if_neg hq, if_pos hl, hsampled, Filter.take_steady hl hx]
  · have hq : ¬(s.capture n).filter.qualifies x = true := fun hq =>
      absurd (Filter.qualifies_iff.mp hq).2.2 (Nat.not_le.mpr hrun)
    rw [if_neg hq, if_pos hl, hsampled, Filter.take_counted hl hx hrun]
  · have hq := Filter.qualifies_iff.mpr ⟨hl, hx, hrun⟩
    rw [if_pos hq, if_pos hq]
  · have hq : ¬(s.capture n).filter.qualifies x = true := fun hq => by
      have hl' := (Filter.qualifies_iff.mp hq).1
      rw [hl] at hl'
      cases hl'
    have hasserted : ((s.sampled n x).capture n).asserted = true ↔ (s.capture n).mode = .level ∧ x = (s.capture n).activeLevel := by
      rw [State.sampled_capture, Filter.take_unloaded hl]
      simp [CaptureLine.asserted]
    rw [if_neg hq, if_neg (by rw [hl]; exact Bool.false_ne_true), State.statusAfterLoad, State.deassertion, ← Filter.take_unloaded hl,
      ← hsampled]
    by_cases ha : ((s.sampled n x).capture n).asserted = true
    · rw [if_pos ha, if_neg fun h => h.2 (hasserted.mp ha)]
    · rw [if_neg ha]
      exact congrArg _ (if_congr ⟨fun h => ⟨h, fun h' => ha (hasserted.mpr h')⟩, fun h => h.1⟩ rfl rfl)
  · have hq : ¬(s.capture n).filter.qualifies x = true := fun hq => by
      obtain ⟨hl, hx, hrun⟩ := Filter.qualifies_iff.mp hq
      rcases h with h | h | h
      · rw [h] at hl
        cases hl
      · exact hx h
      · exact absurd hrun (Nat.not_le.mpr h)
    rw [if_neg hq]

/-- Settles O20: the line takes what the qualifier, the gate and the prescaler make of the change; nothing else of the part's
configuration changes. -/
theorem qualifiedChangePassesTheLine : Obligations.QualifiedChangePassesTheLine := by
  unfold Obligations.QualifiedChangePassesTheLine
  intro n x s hr hl hx hrun
  have hq := Filter.qualifies_iff.mpr ⟨hl, hx, hrun⟩
  have hcapture := State.sampleCapture_capture hq
  refine ⟨s.sampleCapture n x, by rw [exec_captureQualification hr, if_pos hq], ?_, fun k hk => by rw [hcapture, if_neg hk],
    by simp, by simp, by simp, by simp, by simp, by simp⟩
  dsimp only
  rw [hcapture, if_pos rfl, ← EdgeSelect.matching_iff]
  refine ⟨fun hm => ?_, fun hm hno => ?_, fun hm _ he hg => ?_, fun hm hmatch hg => ⟨fun hcount => ?_, fun hcount => ?_⟩⟩
  · rw [CaptureLine.qualify_level (c := (s.capture n).changed x) hm]
    rfl
  · rw [CaptureLine.qualify_unmatched (c := (s.capture n).changed x) hm (Bool.eq_false_of_not_eq_true hno)]
    rfl
  · rw [CaptureLine.qualify_gated (c := (s.capture n).changed x) hm he hg]
    rfl
  · rw [(CaptureLine.qualify_counted (c := (s.capture n).changed x) hm hmatch hg).1 hcount]
    rfl
  · rw [(CaptureLine.qualify_counted (c := (s.capture n).changed x) hm hmatch hg).2 hcount]
    rfl

/-- Settles O21: the groups' events and the capture event are handed on from the line the change leaves. -/
theorem qualifiedChangeIsHandedOn : Obligations.QualifiedChangeIsHandedOn := by
  unfold Obligations.QualifiedChangeIsHandedOn
  intro n x s hr hl hx hrun
  have hq := Filter.qualifies_iff.mpr ⟨hl, hx, hrun⟩
  obtain ⟨hstep, hline⟩ := State.sampleCapture_qualified hq
  dsimp only
  refine ⟨s.sampleCapture n x, ((s.capture n).changed x).qualify.2, (s.sampled n x).snapshot,
    by rw [exec_captureQualification hr, if_pos hq], fun hm => ?_, fun hm hpass => ?_, fun hm hno => ?_, fun k => ?_, ?_⟩
  · rw [CaptureLine.qualify_level (c := (s.capture n).changed x) hm]
    rfl
  · obtain ⟨hmatch, hg, hcount⟩ := hpass
    rw [← EdgeSelect.matching_iff] at hmatch
    rw [(CaptureLine.qualify_counted (c := (s.capture n).changed x) hm hmatch hg).2 hcount]
    rfl
  · rw [← EdgeSelect.matching_iff] at hno
    by_cases hmatch : (s.capture n).edgeSelect.matching x = true
    · by_cases hg : (s.capture n).gateEnable = true → (s.capture n).gate = .opened
      · have hcount : (s.capture n).prescalerCount + 1 < (s.capture n).prescale :=
          Nat.not_le.mp fun hc => hno ⟨hmatch, hg, hc⟩
        rw [(CaptureLine.qualify_counted (c := (s.capture n).changed x) hm hmatch hg).1 hcount]
      · rw [Classical.not_imp] at hg
        have hclosed : (s.capture n).gate = .closed := by
          cases hgate : (s.capture n).gate
          · rfl
          · exact absurd hgate hg.2
        rw [CaptureLine.qualify_gated (c := (s.capture n).changed x) hm hg.1 hclosed]
    · rw [CaptureLine.qualify_unmatched (c := (s.capture n).changed x) hm (Bool.eq_false_of_not_eq_true hmatch)]
  · rw [State.snapshot, setOf_getLsbD]
    by_cases hk : k = n
    · rw [if_pos hk, hk, hline, ← beq_eq_decide]
      rfl
    · rw [if_neg hk]
      have hother : (s.sampled n x).capture k = s.capture k := (State.setCapture_capture ..).trans (if_neg hk)
      rw [hother, beq_eq_decide]
  · have hq' := (s.sampled n x).qualifiedChange_afterAll n s.now
    rw [← hstep, hline] at hq'
    have hbase : (s.sampled n x).setCapture n ((s.sampleCapture n x).capture n) =
        { s.setCapture n ((s.sampleCapture n x).capture n) with capPins := s.capPins.set n x } := by
      simp [State.sampled, State.setCapture]
    rw [hbase] at hq'
    generalize ((s.capture n).changed x).qualify.2 = ev at hq' ⊢
    rcases ev with _ | _ | _ | _ <;> exact hq'

end

section
/-! PROOF. The commands of the Capture Lines and the Group Monitor, and LINE_READ. -/
namespace Sys2Proof.Machine

/-- A number below the count names its member. -/
theorem indexOf_eq {n : Nat} {b : Byte} {i : Fin n} (h : b.toNat = i.val) : indexOf n b = some i := indexOf_some.mpr h

/-- The answer of CAP_CONFIG is its request, the level and the asserted condition (R28). -/
theorem CaptureLine.configAnswer_of_read {f : CapFields} {x : CaptureSettings} (read : captureSettingsOf f = some x)
    {n : CapLine} (hn : f.line.toNat = n.val) (c : CaptureLine) :
    (c.configure x).configAnswer n =
      .ok ([f.line, f.mode, f.edgeSelect, f.activeLevel, f.filterLength] ++ bytes16 f.interval ++ bytes16 f.prescale ++
        [f.gateEnable] ++ [levelCode c.filter.level, flagCode (f.mode == 1#8 && levelCode c.filter.level == f.activeLevel)]) := by
  obtain ⟨hmode, hedge, hlevel, hlength, hinterval, hprescale, hgate⟩ := captureSettingsOf_some read
  have hasserted : (c.configure x).asserted = (f.mode == 1#8 && levelCode c.filter.level == f.activeLevel) := by
    rw [← captureModeOf_code hmode, ← levelOf_code hlevel]
    simp only [CaptureLine.asserted, CaptureLine.configure]
    cases x.mode <;> cases x.activeLevel <;> cases c.filter.level <;> rfl
  unfold CaptureLine.configAnswer CaptureLine.configBytes
  rw [hasserted]
  simp only [CaptureLine.configure, captureModeOf_code hmode, edgeSelectOf_code hedge, levelOf_code hlevel,
    switchOf_code hgate, filterLengthOf_some hlength, intervalOf_some hinterval, prescaleOf_some hprescale, nat8_toNat,
    nat16_toNat, nat8_index hn]

/-- CAP_CONFIG when every check passes. -/
theorem takeCapConfig_passed {m : Master} {f : CapFields} {s : State} {n : CapLine} {x : CaptureSettings}
    (hn : f.line.toNat = n.val) (hright : (s.right m).entries.getLsbD n.val = true) (read : captureSettingsOf f = some x)
    (idle : (s.entry (capEntry n)).awaiting = 0#4) :
    takeCapConfig m f s = (s.configureCapture n x, ((s.capture n).configure x).configAnswer n) := by
  have hprograms : s.programs m (capEntry n) = true := hright
  simp [takeCapConfig, indexOf_eq hn, hprograms, read, idle]

/-- R29: the prescaler count starts again when the mode or the edge select changes. -/
theorem CaptureLine.configure_eq (c : CaptureLine) (x : CaptureSettings) :
    c.configure x =
      { c with
        mode := x.mode
        edgeSelect := x.edgeSelect
        activeLevel := x.activeLevel
        filter := { c.filter with length := x.length, interval := x.interval }
        prescale := x.prescale
        prescalerCount :=
          if c.mode ≠ x.mode ∨ (c.mode = .edge ∧ c.edgeSelect ≠ x.edgeSelect) then 0 else c.prescalerCount
        gateEnable := x.gateEnable
        gate := if x.gateEnable then c.gate else .opened } := by
  have hkeeps : c.keepsCount x = true ↔ ¬(c.mode ≠ x.mode ∨ (c.mode = .edge ∧ c.edgeSelect ≠ x.edgeSelect)) := by
    simp only [CaptureLine.keepsCount, Bool.and_eq_true, Bool.or_eq_true, beq_iff_eq]
    cases c.mode <;> simp
  unfold CaptureLine.configure
  by_cases h : c.mode ≠ x.mode ∨ (c.mode = .edge ∧ c.edgeSelect ≠ x.edgeSelect)
  · rw [if_neg fun hk => hkeeps.mp hk h, if_pos h]
  · rw [if_pos (hkeeps.mpr h), if_neg h]

/-- R111: the records a configuration removes, and why. -/
theorem State.gateHandOff_eq (s : State) (n : CapLine) (x : CaptureSettings) :
    s.gateHandOff n x =
      match x.mode, x.gateEnable with
      | .edge, true => []
      | .edge, false =>
        if s.countRecords (fun r => r.target == .capture n) = 0 then []
        else [fun u => u.cancelRecords (fun r => r.target == .capture n) .released s.now]
      | .level, _ =>
        if s.countRecords (fun r => r.target == .capture n) = 0 then []
        else [fun u => u.cancelRecords (fun r => r.target == .capture n) .detachedTarget s.now] := by
  unfold State.gateHandOff CaptureSettings.gateReason
  cases x.mode <;> cases x.gateEnable <;> rfl

/-- R29, R49, R111: what CAP_CONFIG hands on. -/
theorem State.configureCapture_afterAll (s : State) (n : CapLine) (x : CaptureSettings) :
    (s.setCapture n
      (if (s.capture n).asserted = ((s.capture n).configure x).asserted then (s.capture n).configure x
        else ((s.capture n).configure x).stamp s.now)).afterAll
      (s.gateHandOff n x ++
        if (s.capture n).asserted = ((s.capture n).configure x).asserted then []
        else if ((s.capture n).configure x).asserted then s.eventHandOffs n s.now .assertion
        else s.eventHandOffs n s.now .deassertion) (s.configureCapture n x) := by
  unfold State.configureCapture CaptureLine.configEvent
  dsimp only
  cases (s.capture n).asserted <;> cases ((s.capture n).configure x).asserted <;>
    simp only [Bool.false_eq_true, reduceCtorEq, if_true, if_false, List.append_nil] <;> exact State.inAnyOrder_afterAll _ _

end Sys2Proof.Machine

open Sys2Proof Sys2Proof.Machine

/-- Settles O22: the checks of CAP_CONFIG in order, its answer, and what it hands on. -/
theorem capConfigChecksAndWritesTheLine : Obligations.CapConfigChecksAndWritesTheLine := by
  unfold Obligations.CapConfigChecksAndWritesTheLine
  refine ⟨fun m f s h => ⟨fun hline => ?_, fun n hn => ?_⟩, fun m f s n x h hn hright read idle => ?_⟩
  · exact exec_refuses rfl h (by simp [blockOf, takeCapConfig, indexOf_none.mpr hline])
  · dsimp only
    rw [← captureSettingsOf_isSome]
    refine ⟨fun hright => exec_refuses rfl h ?_, fun hright hbad => exec_refuses rfl h ?_,
      fun hright hgood hidle => exec_refuses rfl h ?_, fun hright hgood idle => ?_⟩
    · have hprograms : s.programs m (capEntry n) = false := hright
      simp [blockOf, takeCapConfig, indexOf_eq hn, hprograms]
    · have hprograms : s.programs m (capEntry n) = true := hright
      have hnone : captureSettingsOf f = none := Option.not_isSome_iff_eq_none.mp hbad
      simp [blockOf, takeCapConfig, indexOf_eq hn, hprograms, hnone]
    · have hprograms : s.programs m (capEntry n) = true := hright
      obtain ⟨x, read⟩ := Option.isSome_iff_exists.mp hgood
      simp [blockOf, takeCapConfig, indexOf_eq hn, hprograms, read, hidle]
    · obtain ⟨x, read⟩ := Option.isSome_iff_exists.mp hgood
      refine ⟨(s.front m).configureCapture n x, exec_answers rfl h ?_⟩
      rw [← CaptureLine.configAnswer_of_read read hn, ← State.front_capture s m n]
      exact takeCapConfig_passed hn (by simpa using hright) read (by simpa using idle)
  · refine ⟨(s.front m).configureCapture n x, _,
      exec_answers rfl h (takeCapConfig_passed hn (by simpa using hright) read (by simpa using idle)), ?_⟩
    have hafter := (s.front m).configureCapture_afterAll n x
    rw [State.front_capture, State.front_now, State.front_gateHandOff, State.front_eventHandOffs, State.front_eventHandOffs,
      State.gateHandOff_eq, CaptureLine.configure_eq] at hafter
    exact hafter

/-- Settles O23: CAP_GATE opens the gate and answers with what it was; GROUP_CONFIG sets the mask and answers with the levels. -/
theorem capGateAndGroupConfigAct : Obligations.CapGateAndGroupConfigAct := by
  unfold Obligations.CapGateAndGroupConfigAct
  refine ⟨fun m line s h => ⟨fun hline => ?_, fun n hn => ?_⟩, fun s n => ?_,
    fun m group mask s h => ⟨fun hgroup => ?_, fun g hg => ?_⟩⟩
  · exact exec_refuses rfl h (by simp [blockOf, takeCapGate, indexOf_none.mpr hline])
  · split
    · next hright =>
      have hprograms : s.programs m (capEntry n) = false := hright
      exact exec_refuses rfl h (by simp [blockOf, takeCapGate, indexOf_eq hn, hprograms])
    · next hright =>
      have hprograms : s.programs m (capEntry n) = true := Bool.eq_true_of_not_eq_false hright
      exact exec_answers rfl h (by simp [blockOf, takeCapGate, indexOf_eq hn, hprograms, CaptureLine.openGate])
  · rw [State.snapshot, setOf_getLsbD, beq_eq_decide]
  · exact exec_refuses rfl h (by simp [blockOf, takeGroupConfig, indexOf_none.mpr hgroup])
  · split
    · next hright =>
      have hprograms : s.programs m (groupEntry g) = false := hright
      exact exec_refuses rfl h (by simp [blockOf, takeGroupConfig, indexOf_eq hg, hprograms])
    · next hright =>
      have hprograms : s.programs m (groupEntry g) = true := Bool.eq_true_of_not_eq_false hright
      exact exec_answers rfl h (by simp [blockOf, takeGroupConfig, indexOf_eq hg, hprograms])

/-- Settles O24: CAP_READ and LINE_READ answer with what the state holds. -/
theorem captureAndOutputLineReadsAnswer : Obligations.CaptureAndOutputLineReadsAnswer := by
  unfold Obligations.CaptureAndOutputLineReadsAnswer
  refine ⟨fun m line s h => ⟨fun hline => ?_, fun n hn => ⟨exec_answers rfl h ?_, fun g => ?_⟩⟩,
    fun m line l s h hl => exec_answers rfl h ?_⟩
  · exact exec_refuses rfl h (by simp [blockOf, takeCapRead, indexOf_none.mpr hline])
  · simp only [blockOf, takeCapRead, indexOf_eq hn, State.front_captureSnapshot]
    simp only [State.captureSnapshot, CaptureLine.configBytes, optionalTimestamp, set8]
    cases (s.capture n).lastTime <;> rfl
  · rw [State.groupsOf, setOf_getLsbD]
  · simp only [blockOf, takeLineRead, indexOf_eq hl, State.front_lineBytes]
    simp only [State.lineBytes, nat8_index hl]
    cases hrec : (s.pair (pairOf l)).record with
    | none => rfl
    | some r =>
      obtain ⟨side, remaining, expiring⟩ := r
      cases side <;> rfl

end

section
/-! PROOF. The Steering Table: deliveries, attempts and resamples (R42 to R46, R60), ENTRY_WRITE, ENTRY_MASK and ENTRY_READ,
DONE, the service periods and the deadlines. -/
namespace Sys2Proof.Machine

/-! ### Deliveries and attempts change entries and queues alone -/

/-- A change of the entries and the queues alone. -/
theorem State.with_entries_queues {s t : State} (resetHeld : t.resetHeld = s.resetHeld := by simp)
    (capPins : t.capPins = s.capPins := by simp) (syncPin : t.syncPin = s.syncPin := by simp)
    (cutoffPin : t.cutoffPin = s.cutoffPin := by simp) (timebase : t.timebase = s.timebase := by simp)
    (captures : t.captures = s.captures := by simp) (groups : t.groups = s.groups := by simp)
    (actions : t.actions = s.actions := by simp) (lines : t.lines = s.lines := by simp) (pairs : t.pairs = s.pairs := by simp)
    (cutoff : t.cutoff = s.cutoff := by simp) (supervisor : t.supervisor = s.supervisor := by simp)
    (label : t.label = s.label := by simp) (rights : t.rights = s.rights := by simp) (ports : t.ports = s.ports := by simp)
    (arbiter : t.arbiter = s.arbiter := by simp) (pending : t.pending = s.pending := by simp) :
    { t with entries := s.entries, queues := s.queues } = s := by
  rw [resetHeld, capPins, syncPin, cutoffPin, timebase, captures, groups, actions, lines, pairs, cutoff, supervisor, label, rights,
    ports, arbiter, pending]

/-- R60: what a resample does, by the mask and the asserted condition. -/
theorem State.resample_eq (s : State) (e : EntryIx) (t : Timestamp) :
    s.resample e t =
      if (s.entry e).masked = false ∧ s.entryAsserted e = true then
        (s.setEntry e { s.entry e with awaiting := 0#4, timer := none, status := .idle }).attempt e t
      else s.setEntry e { s.entry e with awaiting := 0#4, timer := none, status := .idle } := by
  unfold State.resample
  exact if_congr (by rw [Bool.and_eq_true, Bool.not_eq_true']) rfl rfl

/-- R44, R45: an attempt serves a deliverable master, or holds the entry. -/
theorem State.attempt_status (s : State) (e : EntryIx) (t : Timestamp) :
    ((∀ m, s.deliverable e m = false) → ((s.attempt e t).entry e).status = .held) ∧
      ((∃ m, s.deliverable e m = true) → ((s.attempt e t).entry e).status = .inService) := by
  rw [State.attempt_entry, if_pos rfl, ← State.choose_empty]
  refine ⟨fun h => by rw [if_pos h], fun ⟨m, hm⟩ => ?_⟩
  rw [if_neg]
  intro h
  rw [State.choose_empty.mp h m] at hm
  cases hm

/-! ### ENTRY_WRITE and ENTRY_MASK (R48 to R53) -/

theorem entrySettingsOf_none {f : EntryFields} :
    entrySettingsOf f = none ↔ 16 ≤ f.destinations.toNat ∨ 8 ≤ f.control.toNat := by
  rw [← masterSetOf_none, entrySettingsOf]
  cases masterSetOf f.destinations <;> simp

theorem entrySettingsOf_some {f : EntryFields} {c : EntrySettings} (h : entrySettingsOf f = some c) :
    c =
      { masked := f.control.getLsbD 0
        delivery := if f.control.getLsbD 1 then .one else .all
        cutoffSource := f.control.getLsbD 2
        destinations := f.destinations.extractLsb' 0 4
        tag := f.tag
        deadline := f.deadline } := by
  unfold entrySettingsOf at h
  split at h
  · cases h
  · next d hd =>
    split at h
    · cases h
    · cases h
      unfold masterSetOf at hd
      split at hd
      · cases hd; rfl
      · cases hd

theorem entryLine_isNone {e : EntryIx} : (entryLine e).isNone = true ↔ 16 ≤ e.val := by
  unfold entryLine
  split <;> simp <;> omega

/-- R50, R52: what ENTRY_WRITE hands on. -/
theorem State.writeEntry_afterAll (s : State) (e : EntryIx) (c : EntrySettings) :
    (s.setEntry e ((s.entry e).write c)).afterAll
      ((if s.entryAsserted e = true ∧ c.masked = false then [fun u : State => u.attempt e s.now] else []) ++
        match entryLine e with
        | none => []
        | some n =>
          if (s.capture n).asserted = true ∧ (s.entry e).cutoffSource = false ∧ c.cutoffSource = true then
            [fun u : State => u.joinSource (.entry n) s.now]
          else if (s.capture n).asserted = true ∧ (s.entry e).cutoffSource = true ∧ c.cutoffSource = false then
            [fun u : State => u.leaveSource (.entry n) s.now]
          else []) (s.writeEntry e c) := by
  have hattempt : s.writeAttempt e c.masked =
      if s.entryAsserted e = true ∧ c.masked = false then [fun u : State => u.attempt e s.now] else [] := by
    unfold State.writeAttempt
    exact if_congr (by rw [Bool.and_eq_true, Bool.not_eq_true']) rfl rfl
  have hflag : s.flagHandOff e c =
      match entryLine e with
      | none => []
      | some n =>
        if (s.capture n).asserted = true ∧ (s.entry e).cutoffSource = false ∧ c.cutoffSource = true then
          [fun u : State => u.joinSource (.entry n) s.now]
        else if (s.capture n).asserted = true ∧ (s.entry e).cutoffSource = true ∧ c.cutoffSource = false then
          [fun u : State => u.leaveSource (.entry n) s.now]
        else [] := by
    unfold State.flagHandOff
    cases entryLine e with
    | none => rfl
    | some n =>
      cases ha : (s.capture n).asserted <;> cases (s.entry e).cutoffSource <;> cases c.cutoffSource <;> simp [ha]
  rw [← hattempt, ← hflag]
  exact State.inAnyOrder_afterAll _ _

/-- A switch byte below 2 names off or on. -/
theorem switchOf_eq {b : Byte} (h : b.toNat ≤ 1) : switchOf b = some (b == 1#8) := by
  have hcases : b = 0#8 ∨ b = 1#8 := by
    have key : b.toNat = 0 ∨ b.toNat = 1 := by omega
    exact key.imp BitVec.eq_of_toNat_eq BitVec.eq_of_toNat_eq
  rcases hcases with rfl | rfl <;> rfl

theorem State.changeMask_eq (s : State) (e : EntryIx) (b : Bool) :
    s.changeMask e b =
      if (s.entry e).masked = true ∧ b = false then
        if s.entryAsserted e = true ∧ (s.entry e).awaiting = 0#4 then
          (s.setEntry e { s.entry e with masked := false }).attempt e s.now
        else s.setEntry e { s.entry e with masked := false }
      else if (s.entry e).masked = false ∧ b = true then
        s.setEntry e
          { s.entry e with masked := true, status := if (s.entry e).status = .held then .idle else (s.entry e).status }
      else s := by
  unfold State.changeMask
  dsimp only
  cases (s.entry e).masked <;> cases b <;> simp

theorem State.changeMask_masked (s : State) (e : EntryIx) (b : Bool) : ((s.changeMask e b).entry e).masked = b := by
  have hset (x : Entry) : ((s.setEntry e x).entry e).masked = x.masked := by rw [State.setEntry_entry, if_pos rfl]
  rw [State.changeMask_eq]
  split
  · next h =>
    rw [h.2]
    split
    · rw [State.attempt_masked, hset]
    · rw [hset]
  · next h =>
    split
    · next h' => rw [h'.2, hset]
    · next h' => cases hm : (s.entry e).masked <;> cases b <;> simp_all

end Sys2Proof.Machine

open Sys2Proof Sys2Proof.Machine

/-- Settles O26: what an edge event, an attempt, an assertion and a deassertion do at their entry and at the queues. -/
theorem entriesDeliverEventsAndAttempts : Obligations.EntriesDeliverEventsAndAttempts := by
  unfold Obligations.EntriesDeliverEventsAndAttempts
  refine ⟨fun s e t body => ⟨fun h => ?_, fun hm hc => ⟨State.with_entries_queues, fun k => ?_, fun m => ?_⟩⟩,
    fun s e t => ⟨State.with_entries_queues, fun k hk => s.attempt_other t hk, fun hc => ⟨?_, fun m => ?_⟩,
      fun hc => ⟨?_, fun m => ?_⟩⟩, fun s e t => ⟨?_, rfl⟩⟩
  · unfold State.edgeEvent
    by_cases hm : (s.entry e).masked = true
    · rw [if_pos hm]
    · dsimp only
      rw [if_neg hm, if_pos (h.resolve_left hm)]
  · rw [State.edgeEvent_entry]
    simp only [hm, and_true]
  · rw [State.edgeEvent_queue]
    simp only [hm, true_and]
    rfl
  · rw [State.attempt_entry, if_pos rfl, if_pos hc]
  · rw [State.attempt_queue, hc]
    simp
  · rw [State.attempt_entry, if_pos rfl, if_neg hc]
    have hdeadline : (s.entry e).deadline.toNat = 0 ↔ (s.entry e).deadline = 0#16 :=
      ⟨fun h => BitVec.eq_of_toNat_eq h, fun h => by rw [h]; rfl⟩
    simp only [hdeadline]
  · rw [State.attempt_queue]
    rfl
  · unfold State.assertion
    exact if_congr (by rw [Bool.and_eq_true, Bool.not_eq_true', beq_iff_eq]) rfl rfl

/-- Settles O27: leaving an awaiting set, the resample of an emptied entry, and the expiry of a deadline. -/
theorem emptiedAndExpiredEntriesResample : Obligations.EmptiedAndExpiredEntriesResample := by
  unfold Obligations.EmptiedAndExpiredEntriesResample
  refine ⟨fun s e t => ⟨fun m => rfl, fun h => ?_, fun h => by rw [State.resample_eq, if_neg h]⟩,
    fun e s hr => ⟨fun h => ?_, fun k hk hexp => ?_⟩⟩
  · rw [State.resample_eq, if_pos h]
    have hdeliverable (m : Master) :
        (s.setEntry e { s.entry e with awaiting := 0#4, timer := none, status := .idle }).deliverable e m = s.deliverable e m := by
      simp only [State.deliverable, State.setEntry_entry, if_true]
      rfl
    have hstatus := State.attempt_status
      (s.setEntry e { s.entry e with awaiting := 0#4, timer := none, status := .idle }) e t
    simp only [hdeliverable] at hstatus
    exact ⟨rfl, hstatus⟩
  · have hnot : (s.entry e).expiring = false := by
      unfold Entry.expiring
      cases ht : (s.entry e).timer with
      | none => rfl
      | some k => exact h k ht
    have hexec : exec (.deadlineExpiry e) s = .next (if (s.entry e).expiring then s.expire e else s) :=
      congrArg _ (State.event_released _ hr)
    rw [hexec, hnot, if_neg Bool.false_ne_true]
  · have hexpiring : (s.entry e).expiring = true := by simpa [Entry.expiring, hk] using hexp
    have hexec : exec (.deadlineExpiry e) s = .next (if (s.entry e).expiring then s.expire e else s) :=
      congrArg _ (State.event_released _ hr)
    refine ⟨s.reportLapse e (s.entry e).awaiting s.now, fun hnone => ?_, fun h hsome => ?_, ?_⟩
    · rw [State.reportLapse, hnone]
    · rw [State.reportLapse, hsome]
      rfl
    · rw [hexec, hexpiring, if_pos rfl]
      rfl

/-- Settles O28: the checks of ENTRY_WRITE in order, the fields it replaces, and what it hands on. -/
theorem entryWriteReplacesTheFields : Obligations.EntryWriteReplacesTheFields := by
  unfold Obligations.EntryWriteReplacesTheFields
  intro m f s h
  refine ⟨fun hentry => exec_refuses rfl h (by simp [blockOf, takeEntryWrite, indexOf_none.mpr hentry]), fun e he => ?_⟩
  dsimp only
  have hindex := indexOf_eq he
  have hblock (hright : s.programs m e = true) {c : EntrySettings} (hc : entrySettingsOf f = some c)
      (hflag : ¬(f.control.getLsbD 2 = true ∧ 16 ≤ e.val)) :
      blockOf (.entryWrite m f) (s.front m) =
        if (s.entry e).awaiting ≠ 0#4 then (s.front m).refuse .inService
        else ((s.front m).writeEntry e c, .ok (((s.front m).writeEntry e c).entryBytes e)) := by
    have hflag' : (c.cutoffSource && (entryLine e).isNone) = false := by
      rw [Bool.eq_false_iff, ne_eq, Bool.and_eq_true, entryLine_isNone, entrySettingsOf_some hc]
      exact hflag
    simp only [blockOf, takeEntryWrite, hindex, State.front_programs, hright, hc, hflag', State.front_entry, Bool.not_true,
      Bool.false_eq_true, if_false]
  refine ⟨fun hright => ?_, fun hright hbad => ?_, fun hright hgood hserved => ?_, fun hright hgood hidle => ?_⟩
  · have hprograms : s.programs m e = false := hright
    exact exec_refuses rfl h (by simp [blockOf, takeEntryWrite, hindex, hprograms])
  · have hprograms : s.programs m e = true := hright
    refine exec_refuses rfl h ?_
    cases hc : entrySettingsOf f with
    | none => simp [blockOf, takeEntryWrite, hindex, hprograms, hc]
    | some c =>
      have hflag : (c.cutoffSource && (entryLine e).isNone) = true := by
        have hsome : ¬(16 ≤ f.destinations.toNat ∨ 8 ≤ f.control.toNat) := fun hn => by
          rw [entrySettingsOf_none.mpr hn] at hc
          cases hc
        rw [Bool.and_eq_true, entryLine_isNone, entrySettingsOf_some hc]
        rcases hbad with hb | hb | hb
        · exact absurd (.inr hb) hsome
        · exact absurd (.inl hb) hsome
        · exact hb
      simp only [blockOf, takeEntryWrite, hindex, State.front_programs, hprograms, hc, hflag, Bool.not_true, Bool.false_eq_true,
        if_false, if_true]
  all_goals
    have hprograms : s.programs m e = true := hright
    simp only [not_or] at hgood
    obtain ⟨hcontrol, hdest, hflag⟩ := hgood
    have hsome : entrySettingsOf f ≠ none := fun hn => (entrySettingsOf_none.mp hn).elim hdest hcontrol
    obtain ⟨c, hc⟩ := Option.ne_none_iff_exists'.mp hsome
  · exact exec_refuses rfl h (by rw [hblock hprograms hc hflag, if_pos hserved])
  · refine ⟨(s.front m).writeEntry e c, exec_answers rfl h (by rw [hblock hprograms hc hflag, if_neg (not_not.mpr hidle)]), ?_⟩
    have hafter := (s.front m).writeEntry_afterAll e c
    rw [entrySettingsOf_some hc] at hafter ⊢
    simp only [State.front_entry, State.front_entryAsserted, State.front_now, State.front_capture] at hafter
    exact hafter

/-- Settles O29: the checks of ENTRY_MASK, and the change of the mask with the attempt or the status it brings. -/
theorem entryMaskChangesTheMask : Obligations.EntryMaskChangesTheMask := by
  unfold Obligations.EntryMaskChangesTheMask
  intro m entry mask s h
  refine ⟨fun hbad => exec_refuses rfl h ?_, fun e he hmask => ?_⟩
  · rcases hbad with hbad | hbad
    · simp [blockOf, takeEntryMask, indexOf_none.mpr hbad]
    · have hnone := switchOf_none.mpr hbad
      cases hi : indexOf 24 entry <;> simp [blockOf, takeEntryMask, hnone, hi]
  · dsimp only
    have hswitch := switchOf_eq hmask
    split
    · next hright =>
      have hprograms : s.programs m e = false := hright
      exact exec_refuses rfl h (by simp [blockOf, takeEntryMask, indexOf_eq he, hswitch, hprograms])
    · next hright =>
      have hprograms : s.programs m e = true := Bool.eq_true_of_not_eq_false hright
      have hbyte : (mask == 1#8) = false ↔ mask = 0#8 := by
        rw [beq_eq_false_iff_ne]
        exact ⟨fun hn => BitVec.eq_of_toNat_eq (by bv_omega), fun h0 => by rw [h0]; decide⟩
      have hchange := (s.front m).changeMask_eq e (mask == 1#8)
      simp only [State.front_entry, State.front_entryAsserted, State.front_now, hbyte, beq_iff_eq] at hchange
      refine exec_answers rfl h ?_
      rw [← hchange]
      have hflag : flagCode (mask == 1#8) = mask := switchOf_code hswitch
      simp only [blockOf, takeEntryMask, indexOf_eq he, hswitch, State.front_programs, hprograms, Bool.not_true,
        Bool.false_eq_true, if_false, State.maskAnswer, State.changeMask_masked, hflag, nat8_index he]
      rfl

end

section
/-! PROOF. ENTRY_READ, DONE, the service periods, FETCH, ATTN_ENABLE and the notice record. -/
namespace Sys2Proof.Machine

/-! ### ENTRY_READ (R54, R55) -/

theorem controlByte_eq (masked one flag level : Bool) :
    controlByte masked one flag level =
      nat8 ((if masked then 1 else 0) + (if one then 2 else 0) + (if flag then 4 else 0) + if level then 8 else 0) := by
  cases masked <;> cases one <;> cases flag <;> cases level <;> rfl

theorem State.lineLevelByte_eq (s : State) (e : EntryIx) :
    s.lineLevelByte e =
      match entryLine e with
      | some n => nat8 ((if (s.capture n).filter.level = .high then 1 else 0) + if (s.capture n).asserted then 2 else 0)
      | none => 0#8 := by
  unfold State.lineLevelByte
  cases entryLine e with
  | none => rfl
  | some n =>
    dsimp only
    cases (s.capture n).filter.level <;> cases (s.capture n).asserted <;> rfl

/-! ### DONE (R58, R59) -/

theorem State.affected_eq (s : State) (m : Master) (tag : Byte) :
    s.affected m tag =
      (List.finRange 24).filter fun e => (s.entry e).awaiting.getLsbD m.val && (s.entry e).tag == tag := rfl

theorem State.affectedSet_getLsbD (s : State) (m : Master) (tag : Byte) (n : CapLine) :
    (s.affectedSet m tag).getLsbD n.val = decide (capEntry n ∈ s.affected m tag) := by
  rw [State.affectedSet, setOf_getLsbD, State.affected_eq]
  simp only [List.mem_filter, List.mem_finRange, true_and, Bool.decide_eq_true]

theorem State.affectedSet_of_none {s : State} {m : Master} {tag : Byte} (h : s.affected m tag = []) :
    s.affectedSet m tag = 0#16 := by
  refine BitVec.eq_of_getLsbD_eq fun i hi => ?_
  rw [s.affectedSet_getLsbD m tag ⟨i, hi⟩, h]
  simp

/-! ### The notice record (R176) -/

theorem edgeEvent_detail (k : Nat) :
    detailBytes (.edgeEvent k) = (if 2 ≤ k then bytes16 (BitVec.ofNat 16 k) else []) ∧
      nat8 (detailBytes (.edgeEvent k)).length = if 2 ≤ k then 2#8 else 0#8 := by
  by_cases h : 2 ≤ k
  · rw [detailBytes, if_pos h, if_pos h, if_pos h]
    exact ⟨rfl, rfl⟩
  · rw [detailBytes, if_neg h, if_neg h, if_neg h]
    exact ⟨rfl, rfl⟩

end Sys2Proof.Machine

open Sys2Proof Sys2Proof.Machine

/-- Settles O30: the whole snapshot to a master that programs the entry, the restricted one to another. -/
theorem entryReadAnswersByTheRight : Obligations.EntryReadAnswersByTheRight := by
  unfold Obligations.EntryReadAnswersByTheRight
  intro m entry s h
  refine ⟨fun hentry => exec_refuses rfl h (by simp [blockOf, takeEntryRead, indexOf_none.mpr hentry]), fun e he =>
    exec_answers rfl h ?_⟩
  have hdelivery : (((s.entry e).delivery == .one) = true) = ((s.entry e).delivery = .one) := by rw [beq_iff_eq]
  simp only [blockOf, takeEntryRead, indexOf_eq he, State.front_programs, State.front_entryBytes, State.front_entryBytesRestricted]
  have hprograms : s.programs m e = (s.right m).entries.getLsbD e.val := rfl
  rw [hprograms]
  split
  · simp only [State.entryBytes, controlByte_eq, State.lineLevelByte_eq, nat8_index he, hdelivery]
    rfl
  · simp only [State.entryBytesRestricted, controlByte_eq, State.lineLevelByte_eq, nat8_index he]
    rfl

/-- Settles O31: the entries with the tag that await the caller, and how many there are. -/
theorem doneCompletesTheTaggedEntries : Obligations.DoneCompletesTheTaggedEntries := by
  unfold Obligations.DoneCompletesTheTaggedEntries
  intro m tag s h
  dsimp only
  rw [← State.affected_eq]
  refine ⟨fun hnone => exec_answers rfl h ?_, fun hsome => ⟨(s.front m).complyDone m tag, s.affectedSet m tag,
    exec_answers rfl h ?_, s.affectedSet_getLsbD m tag, ?_⟩⟩
  · simp only [blockOf, takeDone, State.complyDone, State.front_affected, State.front_affectedSet, hnone,
      State.affectedSet_of_none hnone, List.map_nil, State.inAnyOrder_nil]
    rfl
  · have hempty : (s.affected m tag).isEmpty = false := List.isEmpty_eq_false_iff.mpr hsome
    simp only [blockOf, takeDone, State.front_affected, State.front_affectedSet, hempty, Bool.false_eq_true, if_false]
    rfl
  · unfold State.complyDone
    rw [State.front_affected, State.front_now]
    exact State.inAnyOrder_afterAll _ _

/-- Settles O32: the expiries that are left are taken, then the timers count. -/
theorem servicePeriodCountsDeadlines : Obligations.ServicePeriodCountsDeadlines := by
  unfold Obligations.ServicePeriodCountsDeadlines
  intro s hr
  refine ⟨s.takeExpiries, s.servicePeriod, State.inAnyOrder_afterAll _ _, congrArg _ (State.event_released _ hr), rfl, rfl,
    fun e => ?_⟩
  have hentry : s.servicePeriod.entry e =
      { s.takeExpiries.entry e with timer := (s.takeExpiries.entry e).timer.map DeadlineTimer.servicePeriod } := by
    simp [State.servicePeriod, State.entry]
  rw [hentry]
  cases (s.takeExpiries.entry e).timer <;> rfl

/-- Settles O34: FETCH, ATTN_ENABLE, the attention output, and the bytes of a notice, kind by kind. -/
theorem fetchAndAttentionFollowTheQueue : Obligations.FetchAndAttentionFollowTheQueue := by
  unfold Obligations.FetchAndAttentionFollowTheQueue
  refine ⟨fun m s h => ⟨fun hnone => ?_, fun n rest hsome => exec_answers rfl h ?_⟩, ⟨fun m x s h => ?_, fun m s => ?_⟩,
    fun n => ?_⟩
  · exact exec_refuses rfl h (by simp [blockOf, takeFetch, hnone])
  · have hmore (q : NoticeQueue) : flagCode (!q.notices.isEmpty) = if q.notices = [] then 0#8 else 1#8 := by
      cases q.notices <;> rfl
    have hafter : (s.queue m).afterFetch rest s.now =
        if (s.queue m).losses = 0 then { s.queue m with notices := rest }
        else
          { s.queue m with
            notices := rest ++ [⟨.overflow (s.queue m).losses (s.queue m).firstLoss (s.queue m).lostSources, 0, 0#8, s.now⟩]
            losses := 0
            firstLoss := none
            lostSources := 0 } := by
      unfold NoticeQueue.afterFetch NoticeQueue.overflowing
      by_cases h0 : (s.queue m).losses = 0
      · rw [if_pos h0, if_neg (by simp [h0])]
      · rw [if_neg h0, if_pos (by simpa using h0)]
        rfl
    simp only [blockOf, takeFetch, State.front_queue, hsome, State.front_now, hafter, fetchAnswer, hmore]
  · split
    · next hx => exact exec_refuses rfl h (by simp [blockOf, takeAttnEnable, switchOf_none.mpr hx])
    · next hx =>
      have hswitch := switchOf_eq (b := x) (by omega)
      have hflag : flagCode (x == 1#8) = x := switchOf_code hswitch
      exact exec_answers rfl h (by simp [blockOf, takeAttnEnable, hswitch, hflag, State.depth])
  · unfold State.attention
    rw [Bool.and_eq_true, Bool.and_eq_true, beq_iff_eq, Bool.not_eq_true', List.isEmpty_eq_false_iff, and_assoc]
    rfl
  · obtain ⟨body, source, tag, time⟩ := n
    cases body with
    | edgeEvent k =>
      unfold noticeBytes
      rw [(edgeEvent_detail k).2, (edgeEvent_detail k).1]
      rfl
    | cutoffChange st trip => cases trip <;> rfl
    | actionCancelled reason => cases reason <;> rfl
    | _ => rfl

end

section
/-! PROOF. The reading commands of the system, and the line and pair commands. -/
namespace Sys2Proof.Machine

/-! ### What the cutoff snapshot says (R158) -/

theorem tripBytes_eq (x : Option Trip) :
    tripBytes x =
      match x with
      | none => [0xFF#8, 0#8, 0#8, 0#8, 0#8, 0#8, 0#8, 0#8, 0#8]
      | some r => [cutSourceCode r.first, r.time.epoch] ++ bytes32 r.time.count ++ bytes24 (r.seen.setWidth 24) := by
  cases x <;> rfl

theorem State.cutOwnerByte_eq (s : State) (l : OutLine) :
    s.cutOwnerByte l =
      match (s.line l).drive, (s.line l).owner with
      | .cut, some h => nat8 h.val
      | _, _ => 0xFF#8 := by
  unfold State.cutOwnerByte
  cases (s.line l).drive <;> cases (s.line l).owner <;> rfl

theorem deadTimeBytes_eq (x : Option DeadTimeRecord) :
    deadTimeBytes x =
      match x with
      | none => [0xFF#8, 0#8, 0#8]
      | some r => [if r.line = .a then 0#8 else 1#8] ++ nat16 r.remaining := by
  match x with
  | none => rfl
  | some ⟨.a, _, _⟩ => rfl
  | some ⟨.b, _, _⟩ => rfl

/-! ### A line together with its pair (R120, R123) -/

theorem State.setLine_line_self (s : State) (l : OutLine) : s.setLine l (s.line l) = s := by
  have h : s.lines.set l (s.line l) = s.lines := Vector.ext fun i hi => by
    rw [Vector.getElem_set]
    split
    · next e => subst e; rfl
    · rfl
  unfold State.setLine
  rw [h]

/-- An addressed line of a COMPLEMENT pair is its line A (R119). -/
theorem State.addressed_lineA {s : State} {l : OutLine} (hb : s.complementB l = false) (hc : s.complement (pairOf l) = true) :
    l = lineA (pairOf l) := by
  have key : ∀ k : OutLine, (sideOf k == .b) = false → k = lineA (pairOf k) := by decide
  refine key l ?_
  rw [State.complementB, hc, Bool.true_and] at hb
  exact hb

theorem State.together_of_lineB {s : State} {l : OutLine} (hc : s.complement (pairOf l) = true) :
    s.together l (lineB (pairOf l)) = true := by
  rw [State.together_eq, hc, pairOf_lineB]
  simp

/-- R123: enabling a line drives it and the line that acts with it, and a COMPLEMENT pair starts toward its line B. -/
theorem State.enableLine_eq {s : State} {l : OutLine} (hb : s.complementB l = false) :
    s.enableLine l =
      let p := pairOf l
      let u := s.changeLines (s.together l) fun x => { x with drive := .driven, active := false }
      if s.complement p then
        (u.setPair p
          { s.pair p with
            state := some (if (s.pair p).deadTime = 0 then .bActive else .deadToB)
            record := if (s.pair p).deadTime = 0 then none else some ⟨.b, (s.pair p).deadTime, false⟩ }).setLine
          (lineB p) { u.line (lineB p) with active := true }
      else u := by
  unfold State.enableLine
  dsimp only
  cases hc : s.complement (pairOf l) with
  | false => rfl
  | true =>
    rw [if_pos rfl, if_pos rfl, State.handOver_eq]
    have ha : (s.changeLines (s.together l) fun x => { x with drive := .driven, active := false }).line (lineA (pairOf l)) =
        { s.line (lineA (pairOf l)) with drive := .driven, active := false } := by
      rw [State.changeLines_line, ← State.addressed_lineA hb hc, if_pos (State.outputsSafe.together_self s l)]
    have hstay (x : Pair) : ((s.changeLines (s.together l) fun x => { x with drive := .driven, active := false }).setPair
          (pairOf l) x).setLine (lineA (pairOf l)) { s.line (lineA (pairOf l)) with drive := .driven, active := false } =
        (s.changeLines (s.together l) fun x => { x with drive := .driven, active := false }).setPair (pairOf l) x := by
      rw [← ha]
      exact State.setLine_line_self _ _
    rw [ha]
    exact congrArg (State.setLine · _ _) (hstay _)

theorem State.disableLine_eq (s : State) (l : OutLine) :
    s.disableLine l =
      let p := pairOf l
      let u := s.changeLines (s.together l) fun x => { x with drive := .disabled, active := false }
      if s.complement p then u.setPair p { s.pair p with state := none, record := none } else u := by
  unfold State.disableLine
  rw [State.clearPairs_together]
  dsimp only
  split <;> rfl

theorem State.front_together_eq (s : State) (m : Master) (l : OutLine) : (s.front m).together l = s.together l :=
  funext fun k => s.front_together m l k

theorem State.mode_of_complement {s t : State} {p : PairIx} (h : t.complement p = s.complement p) :
    (t.pair p).mode = (s.pair p).mode := by
  unfold State.complement at h
  cases ht : (t.pair p).mode <;> cases hs : (s.pair p).mode <;> simp [ht, hs] at h ⊢

theorem State.enableLine_complement (s : State) (l : OutLine) (p : PairIx) :
    (s.enableLine l).complement p = s.complement p := by
  unfold State.enableLine
  dsimp only
  split
  · exact State.outputsSafe.handOver_complement _ _ _ _
  · rfl

theorem State.enableLine_drive (s : State) (l : OutLine) : ((s.enableLine l).line l).drive = .driven := by
  have hdriven : ((s.changeLines (s.together l) fun x => { x with drive := .driven, active := false }).line l).drive = .driven := by
    rw [State.changeLines_line, if_pos (State.outputsSafe.together_self s l)]
  unfold State.enableLine
  dsimp only
  split
  · obtain ⟨a, ha, -⟩ := State.outputsSafe.handOver_line
      (s.changeLines (s.together l) fun x => { x with drive := .driven, active := false }) (pairOf l) .b l
    rw [ha]
    exact hdriven
  · exact hdriven

theorem State.disableLine_complement (s : State) (l : OutLine) (p : PairIx) :
    (s.disableLine l).complement p = s.complement p :=
  State.outputsSafe.clearPairs_complement s (s.together l) p

theorem State.disableLine_drive (s : State) (l : OutLine) : ((s.disableLine l).line l).drive = .disabled := by
  unfold State.disableLine
  rw [State.changeLines_line, if_pos (State.outputsSafe.together_self s l)]
  rfl

/-- What LINE_ENABLE answers (R123), on a driven line. -/
theorem State.enableAnswer_eq {t : State} {l : OutLine} (hd : (t.line l).drive = .driven) :
    t.enableAnswer l =
      .ok ([nat8 l.val, 2#8, flagCode (t.line l).active, electricalCode (t.electrical l),
            pairModeCode (t.pair (pairOf l)).mode] ++
          (if t.complement (pairOf l) then
            [flagCode (t.line (lineB (pairOf l))).active, electricalCode (t.electrical (lineB (pairOf l)))]
           else [0#8, 0#8]) ++
          [pairStateCode (t.pair (pairOf l)).state] ++
          (match (t.pair (pairOf l)).record with
          | none => [0xFF#8, 0#8, 0#8]
          | some r => [if r.line = .a then 0#8 else 1#8] ++ nat16 r.remaining)) := by
  rw [State.enableAnswer, hd, deadTimeBytes_eq]
  unfold State.ofLineB
  cases t.complement (pairOf l) <;> rfl

/-- What LINE_DISABLE answers (R124), on a line that has stopped. -/
theorem State.disableAnswer_eq {t : State} {l : OutLine} (hd : (t.line l).drive = .disabled) :
    t.disableAnswer l =
      .ok [nat8 l.val, 1#8, electricalCode (t.electrical l), pairModeCode (t.pair (pairOf l)).mode,
        if t.complement (pairOf l) then electricalCode (t.electrical (lineB (pairOf l))) else 0#8] := by
  rw [State.disableAnswer, hd]
  rfl

/-! ### LINE_CONFIG (R121) and PAIR_CONFIG (R132) -/

theorem lineSettingsOf_none {f : LineFields} :
    lineSettingsOf f = none ↔ 2 ≤ f.polarity.toNat ∨ 3 ≤ f.safe.toNat ∨ 2 ≤ f.cutEnable.toNat := by
  rw [← polarityOf_none, ← safeLevelOf_none, ← switchOf_none]
  unfold lineSettingsOf
  cases polarityOf f.polarity <;> cases safeLevelOf f.safe <;> cases switchOf f.cutEnable <;> simp

/-- What LINE_CONFIG writes, where no field is refused. -/
def lineSettingsFrom (f : LineFields) : LineSettings where
  polarity := if f.polarity = 0#8 then .activeHigh else .activeLow
  safe := if f.safe = 0#8 then .low else if f.safe = 1#8 then .high else .float
  cutEnable := f.cutEnable == 1#8

theorem lineSettingsOf_some {f : LineFields}
    (h : ¬(2 ≤ f.polarity.toNat ∨ 3 ≤ f.safe.toNat ∨ 2 ≤ f.cutEnable.toNat)) :
    lineSettingsOf f = some (lineSettingsFrom f) ∧ polarityCode (lineSettingsFrom f).polarity = f.polarity ∧
      electricalCode (lineSettingsFrom f).safe = f.safe ∧ flagCode (lineSettingsFrom f).cutEnable = f.cutEnable := by
  obtain ⟨hp, hs, hc⟩ : ¬2 ≤ f.polarity.toNat ∧ ¬3 ≤ f.safe.toNat ∧ ¬2 ≤ f.cutEnable.toNat := by omega
  have hpolarity : polarityOf f.polarity = some (lineSettingsFrom f).polarity := by
    have key : ∀ b : Byte, ¬2 ≤ b.toNat → polarityOf b = some (if b = 0#8 then .activeHigh else .activeLow) := by decide
    exact key _ hp
  have hsafe : safeLevelOf f.safe = some (lineSettingsFrom f).safe := by
    have key : ∀ b : Byte, ¬3 ≤ b.toNat →
        safeLevelOf b = some (if b = 0#8 then .low else if b = 1#8 then .high else .float) := by decide
    exact key _ hs
  have hcut : switchOf f.cutEnable = some (lineSettingsFrom f).cutEnable := switchOf_eq (by omega)
  refine ⟨?_, polarityOf_code hpolarity, safeLevelOf_code hsafe, switchOf_code hcut⟩
  unfold lineSettingsOf
  rw [hpolarity, hsafe, hcut]

theorem flagCode_ne {x y : Bool} : (x != y) = true ↔ flagCode y ≠ flagCode x := by cases x <;> cases y <;> decide

theorem State.configureLine_at (s : State) (l : OutLine) (c : LineSettings) (k : OutLine) :
    (s.configureLine l c).line k =
      let y := if s.together l k && !s.complementB l then { s.line k with cutEnable := c.cutEnable } else s.line k
      if k = l then { y with polarity := c.polarity, safe := c.safe } else y := by
  simp [State.configureLine, State.line]

theorem State.configureLine_eq (s : State) (l : OutLine) (c : LineSettings) :
    s.configureLine l c =
      let u := s.changeLines (fun k => !s.complementB l && s.together l k) fun y => { y with cutEnable := c.cutEnable }
      u.setLine l { u.line l with polarity := c.polarity, safe := c.safe } := by
  have hline : ∀ k, (s.configureLine l c).line k =
      ((s.changeLines (fun k => !s.complementB l && s.together l k) fun y => { y with cutEnable := c.cutEnable }).setLine l
        { (s.changeLines (fun k => !s.complementB l && s.together l k) fun y =>
            { y with cutEnable := c.cutEnable }).line l with polarity := c.polarity, safe := c.safe }).line k := fun k => by
    rw [State.setLine_line, State.configureLine_at]
    simp only [State.changeLines_line, Bool.and_comm (!s.complementB l)]
    split
    · next e => subst e; rfl
    · rfl
  exact congrArg (fun x : Vector OutputLine 8 => ({ s with lines := x } : State)) (Vector.ext fun i hi => hline ⟨i, hi⟩)

theorem State.configureLine_pair (s : State) (l : OutLine) (c : LineSettings) (p : PairIx) :
    (s.configureLine l c).pair p = s.pair p := rfl

/-- R121: the cut-enable a LINE_CONFIG leaves is that of the pair when the line is line B of it. -/
theorem State.configureLine_pairCutEnable (s : State) (l : OutLine) (c : LineSettings) :
    (s.configureLine l c).pairCutEnable l = if s.complementB l then s.pairCutEnable l else c.cutEnable := by
  have hlead : (s.configureLine l c).pairCutEnable l = ((s.configureLine l c).line (s.lead l)).cutEnable := rfl
  have hcut : ((s.configureLine l c).line (s.lead l)).cutEnable =
      if s.together l (s.lead l) && !s.complementB l then c.cutEnable else (s.line (s.lead l)).cutEnable :=
    (State.outputsSafe.configureLine_line s l c (s.lead l)).2.2.2
  have htogether : s.together l (s.lead l) = true := by
    unfold State.together
    cases hc : s.complement (pairOf l) with
    | false => rw [State.lead_independent hc, State.lead_independent hc, beq_self_eq_true]
    | true =>
      have hl : s.lead l = lineA (pairOf l) := if_pos hc
      rw [hl, State.lead_lineA, beq_self_eq_true]
  rw [hlead, hcut, htogether, Bool.true_and]
  cases s.complementB l <;> rfl

theorem pairModeOf_some {b : Byte} (h : ¬2 ≤ b.toNat) :
    pairModeOf b = some (if b = 0#8 then .independent else .complement) := by
  have key : ∀ b : Byte, ¬2 ≤ b.toNat → pairModeOf b = some (if b = 0#8 then .independent else .complement) := by decide
  exact key b h

end Sys2Proof.Machine

open Sys2Proof Sys2Proof.Machine

/-- Settles O13: STATUS, IDENTIFY, TB_READ and CUT_READ, byte by byte, and the codes the snapshots write. -/
theorem statusAndUnitReadsAnswer : Obligations.StatusAndUnitReadsAnswer := by
  unfold Obligations.StatusAndUnitReadsAnswer
  refine ⟨fun m s => ⟨fun h => exec_answers rfl h ?_, fun h => exec_answers rfl h ?_⟩,
    fun m s h => exec_answers rfl h ?_, fun m s h => exec_answers rfl h ?_,
    ⟨fun _ => rfl, fun _ => rfl, fun _ => rfl, fun _ => rfl⟩, ?_⟩
  · simp [blockOf, takeStatus, State.depth, NoticeQueue.overflowing]
  · simp only [blockOf, takeIdentify, State.front_labelBytes]
    simp [State.labelBytes]
    rfl
  · simp only [blockOf, takeTbRead, Timebase.snapshot]
    simp
  · simp only [blockOf, takeCutRead, State.front_cutoffBytes]
    have howner : s.cutOwnerByte = fun l =>
        match (s.line l).drive, (s.line l).owner with
        | .cut, some h => nat8 h.val
        | _, _ => 0xFF#8 := funext s.cutOwnerByte_eq
    simp only [State.cutoffBytes, tripBytes_eq, howner]
    rfl
  · exact ⟨rfl, rfl, rfl, rfl, rfl, rfl, rfl, rfl, rfl, rfl, rfl, rfl, rfl, rfl, rfl, fun _ => rfl, rfl, fun _ => rfl, rfl,
      fun _ => rfl⟩

/-- Settles O43: a line number above 7 and a pair number above 3 are BAD_ARG to every command that names one. -/
theorem unknownLineIsBadArg : Obligations.UnknownLineIsBadArg := by
  unfold Obligations.UnknownLineIsBadArg
  intro m line f g s i hi hline hf hg h
  have hread : indexOf 8 line = none := indexOf_none.mpr hline
  have hconfig : indexOf 8 f.line = none := indexOf_none.mpr hf
  have hpair : indexOf 4 g.pair = none := indexOf_none.mpr hg
  have haddressed (t : State) : t.addressedLine line = none := State.addressedLine_unknown hline
  simp only [List.mem_cons, List.not_mem_nil, or_false] at hi
  rcases hi with rfl | rfl | rfl | rfl | rfl | rfl | rfl
  · exact exec_refuses rfl h (by simp [blockOf, takeLineClaim, haddressed])
  · exact exec_refuses rfl h (by simp [blockOf, takeLineRelease, haddressed])
  · exact exec_refuses rfl h (by simp [blockOf, takeLineEnable, haddressed])
  · exact exec_refuses rfl h (by simp [blockOf, takeLineDisable, haddressed])
  · exact exec_refuses rfl h (by simp [blockOf, takeLineRead, hread])
  · exact exec_refuses rfl h (by simp [blockOf, takeLineConfig, hconfig])
  · exact exec_refuses rfl h (by simp [blockOf, takePairConfig, hpair])

/-- Settles O41: a claim and a release, check by check, and the owner and the drive they write. -/
theorem lineClaimAndReleaseMoveTheOwner : Obligations.LineClaimAndReleaseMoveTheOwner := by
  unfold Obligations.LineClaimAndReleaseMoveTheOwner
  intro m line l s hline
  dsimp only
  simp only [← State.together_eq]
  refine ⟨fun h => ?_, fun h => ?_⟩
  · split
    · next hb => exact exec_refuses rfl h (by simp [blockOf, takeLineClaim, State.addressedLine_of hline, hb])
    next hb =>
    rw [Bool.not_eq_true] at hb
    split
    · next hm =>
      have hno := State.mayClaim_false.mpr hm
      exact exec_refuses rfl h (by simp [blockOf, takeLineClaim, State.addressedLine_of hline, hb, hno])
    next hno =>
    have hm : s.mayClaim m l = true := Bool.eq_true_of_not_eq_false (mt State.mayClaim_false.mp hno)
    split
    · next hd => exact exec_refuses rfl h (by simp [blockOf, takeLineClaim, State.addressedLine_of hline, hb, hm, hd])
    next hd =>
    rw [not_not] at hd
    refine exec_answers rfl h ?_
    simp [blockOf, takeLineClaim, State.addressedLine_of hline, hb, hm, hd, nat8_index hline, State.front_together_eq]
    exact ⟨rfl, rfl⟩
  · split
    · next hb => exact exec_refuses rfl h (by simp [blockOf, takeLineRelease, State.addressedLine_of hline, hb])
    next hb =>
    rw [Bool.not_eq_true] at hb
    split
    · next ho => exact exec_refuses rfl h (by simp [blockOf, takeLineRelease, State.addressedLine_of hline, hb, ho])
    next ho =>
    rw [not_not] at ho
    split
    · next hd => exact exec_refuses rfl h (by simp [blockOf, takeLineRelease, State.addressedLine_of hline, hb, ho, hd])
    next hd =>
    refine exec_answers rfl h ?_
    simp [blockOf, takeLineRelease, State.addressedLine_of hline, hb, ho, hd, nat8_index hline, State.front_together_eq]
    exact ⟨rfl, rfl⟩

/-- Settles O42: an enable and a disable, check by check; the pair of a COMPLEMENT line starts and stops with it. -/
theorem lineEnableAndDisableDriveTheLine : Obligations.LineEnableAndDisableDriveTheLine := by
  unfold Obligations.LineEnableAndDisableDriveTheLine
  intro m line l s hline sound
  dsimp only
  simp only [← State.together_eq]
  have howned {d : Drive} (hd : (s.line l).drive = d) (hf : d = .float) : (s.line l).owner = none := by
    rw [hf] at hd
    exact ((State.linesSound_iff.mp sound).1 l).1.mpr hd
  refine ⟨fun h => ?_, fun h => ?_⟩
  · split
    · next hb => exact exec_refuses rfl h (by simp [blockOf, takeLineEnable, State.addressedLine_of hline, hb])
    next hb =>
    rw [Bool.not_eq_true] at hb
    split
    · next ho => exact exec_refuses rfl h (by simp [blockOf, takeLineEnable, State.addressedLine_of hline, hb, ho])
    next ho =>
    rw [not_not] at ho
    cases hd : (s.line l).drive with
    | float => exact absurd (ho.symm.trans (howned hd rfl)) (by simp)
    | cut => exact exec_refuses rfl h (by simp [blockOf, takeLineEnable, State.addressedLine_of hline, hb, ho, hd])
    | driven => exact exec_refuses rfl h (by simp [blockOf, takeLineEnable, State.addressedLine_of hline, hb, ho, hd])
    | disabled =>
      rw [if_neg (by decide), if_neg (by decide)]
      split
      · next hc => exact exec_refuses rfl h (by simp [blockOf, takeLineEnable, State.addressedLine_of hline, hb, ho, hd, hc])
      next hc =>
      have hopen : ((s.line l).cutEnable && s.cutoff.state == .tripped) = false := by
        rw [← Bool.not_eq_true, Bool.and_eq_true, beq_iff_eq]
        exact hc
      have hstate := State.enableLine_eq (s := s.front m) (l := l) (by rw [State.front_complementB, hb])
      simp only [State.front_together_eq, State.front_complement, State.front_pair] at hstate
      have key : ∀ t : State, (s.front m).enableLine l = t →
          exec (.lineEnable m line) s =
            .next (t.answer m 0x3B#8
              (.ok ([line, 2#8, flagCode (t.line l).active, electricalCode (t.electrical l),
                  pairModeCode (s.pair (pairOf l)).mode] ++
                (if s.complement (pairOf l) then
                  [flagCode (t.line (lineB (pairOf l))).active, electricalCode (t.electrical (lineB (pairOf l)))]
                 else [0#8, 0#8]) ++
                [pairStateCode (t.pair (pairOf l)).state] ++
                (match (t.pair (pairOf l)).record with
                | none => [0xFF#8, 0#8, 0#8]
                | some r => [if r.line = .a then 0#8 else 1#8] ++ nat16 r.remaining)))) := by
        rintro t rfl
        have hcomplement : ((s.front m).enableLine l).complement (pairOf l) = s.complement (pairOf l) := by
          rw [State.enableLine_complement, State.front_complement]
        have hblock : blockOf (.lineEnable m line) (s.front m) =
            ((s.front m).enableLine l, ((s.front m).enableLine l).enableAnswer l) := by
          simp [blockOf, takeLineEnable, State.addressedLine_of hline, hb, ho, hd, hopen]
        rw [exec_answers rfl h hblock, State.enableAnswer_eq ((s.front m).enableLine_drive l),
          State.mode_of_complement hcomplement, hcomplement, nat8_index hline]
        rfl
      exact key _ hstate
  · split
    · next hb => exact exec_refuses rfl h (by simp [blockOf, takeLineDisable, State.addressedLine_of hline, hb])
    next hb =>
    rw [Bool.not_eq_true] at hb
    split
    · next ho => exact exec_refuses rfl h (by simp [blockOf, takeLineDisable, State.addressedLine_of hline, hb, ho])
    next ho =>
    rw [not_not] at ho
    cases hd : (s.line l).drive with
    | float => exact absurd (ho.symm.trans (howned hd rfl)) (by simp)
    | cut => exact exec_refuses rfl h (by simp [blockOf, takeLineDisable, State.addressedLine_of hline, hb, ho, hd])
    | disabled => exact exec_refuses rfl h (by simp [blockOf, takeLineDisable, State.addressedLine_of hline, hb, ho, hd])
    | driven =>
      rw [if_neg (by decide), if_neg (by decide)]
      split
      · next hu =>
        have hused := State.lineInUse_iff.mpr hu
        exact exec_refuses rfl h (by simp [blockOf, takeLineDisable, State.addressedLine_of hline, hb, ho, hd, hused])
      next hu =>
      have hunused : s.lineInUse l = false := by
        rw [← Bool.not_eq_true]
        exact mt State.lineInUse_iff.mp hu
      have hstate := State.disableLine_eq (s.front m) l
      simp only [State.front_together_eq, State.front_complement, State.front_pair] at hstate
      have key : ∀ t : State, (s.front m).disableLine l = t →
          exec (.lineDisable m line) s =
            .next (t.answer m 0x3C#8
              (.ok [line, 1#8, electricalCode (t.electrical l), pairModeCode (s.pair (pairOf l)).mode,
                if s.complement (pairOf l) then electricalCode (t.electrical (lineB (pairOf l))) else 0#8])) := by
        rintro t rfl
        have hcomplement : ((s.front m).disableLine l).complement (pairOf l) = s.complement (pairOf l) := by
          rw [State.disableLine_complement, State.front_complement]
        have hblock : blockOf (.lineDisable m line) (s.front m) =
            ((s.front m).disableLine l, ((s.front m).disableLine l).disableAnswer l) := by
          simp [blockOf, takeLineDisable, State.addressedLine_of hline, hb, ho, hd, hunused]
        rw [exec_answers rfl h hblock, State.disableAnswer_eq ((s.front m).disableLine_drive l),
          State.mode_of_complement hcomplement, hcomplement, nat8_index hline]
        rfl
      exact key _ hstate

/-- Settles O44: LINE_CONFIG and PAIR_CONFIG, check by check, and the fields they write. -/
theorem lineAndPairConfigWriteTheirFields : Obligations.LineAndPairConfigWriteTheirFields := by
  unfold Obligations.LineAndPairConfigWriteTheirFields
  refine ⟨fun m f l s h hline => ?_, fun m f p s h hpair => ?_⟩
  · dsimp only
    simp only [← State.together_eq]
    have hix := indexOf_eq hline
    split
    · next hf => exact exec_refuses rfl h (by simp [blockOf, takeLineConfig, hix, lineSettingsOf_none.mpr hf])
    next hf =>
    obtain ⟨hsettings, hpolarity, hsafe, hcut⟩ := lineSettingsOf_some hf
    split
    · next ho => exact exec_refuses rfl h (by simp [blockOf, takeLineConfig, hix, hsettings, ho])
    next ho =>
    rw [not_not] at ho
    split
    · next hd => exact exec_refuses rfl h (by simp [blockOf, takeLineConfig, hix, hsettings, ho, hd])
    next hd =>
    rw [not_not] at hd
    have hheld : s.pairCutEnable l =
        if s.complement (pairOf l) then (s.line (lineA (pairOf l))).cutEnable else (s.line l).cutEnable := by
      unfold State.pairCutEnable State.lead
      split <;> rfl
    rw [← hheld]
    have hrefused : (s.complementB l = true ∧ flagCode (s.pairCutEnable l) ≠ f.cutEnable) ↔
        (s.complementB l && (lineSettingsFrom f).cutEnable != s.pairCutEnable l) = true := by
      rw [Bool.and_eq_true, flagCode_ne, hcut]
    split
    · next hb =>
      have hb' := hrefused.mp hb
      exact exec_refuses rfl h (by
        simp only [blockOf, takeLineConfig, hix, hsettings, State.front_line, State.front_complementB,
          State.front_pairCutEnable, hb', ho, hd, ne_eq, not_true_eq_false, if_false, if_true])
    next hb =>
    have hb' : (s.complementB l && (lineSettingsFrom f).cutEnable != s.pairCutEnable l) = false := by
      rw [← Bool.not_eq_true]
      exact mt hrefused.mpr hb
    have hanswered : flagCode (((s.front m).configureLine l (lineSettingsFrom f)).pairCutEnable l) = f.cutEnable := by
      rw [State.configureLine_pairCutEnable, State.front_complementB, State.front_pairCutEnable]
      split
      · next hB => exact not_not.mp fun hne => hb ⟨hB, hne⟩
      · exact hcut
    have hconfigured : ((s.front m).configureLine l (lineSettingsFrom f)).line l =
        { (if s.together l l && !s.complementB l then { s.line l with cutEnable := (lineSettingsFrom f).cutEnable }
            else s.line l) with polarity := (lineSettingsFrom f).polarity, safe := (lineSettingsFrom f).safe } := by
      rw [State.configureLine_at, if_pos rfl, State.front_line, State.front_together, State.front_complementB]
    have hblock : blockOf (.lineConfig m f) (s.front m) = ((s.front m).configureLine l (lineSettingsFrom f),
        .ok [f.line, f.polarity, f.safe, f.cutEnable, pairModeCode (s.pair (pairOf l)).mode]) := by
      simp only [blockOf, takeLineConfig, hix, hsettings, State.front_line, State.front_complementB,
        State.front_pairCutEnable, hb', ho, hd, ne_eq, not_true_eq_false, if_false, Bool.false_eq_true, hanswered,
        hconfigured, hpolarity, hsafe, nat8_index hline, State.configureLine_pair, State.front_pair]
    have hstate := State.configureLine_eq (s.front m) l (lineSettingsFrom f)
    simp only [State.front_complementB, State.front_together] at hstate
    rw [exec_answers rfl h hblock, hstate]
    rfl
  · dsimp only
    have hix := indexOf_eq hpair
    split
    · next hf =>
      refine exec_refuses rfl h ?_
      simp only [blockOf, takePairConfig, hix]
      rcases hf with hf | hf
      · rw [pairModeOf_none.mpr hf]
      · have hdead : deadTimeOf f.deadTime = none := if_neg (by omega)
        rw [hdead]
        cases pairModeOf f.mode <;> rfl
    next hf =>
    obtain ⟨hm, hdead⟩ : ¬2 ≤ f.mode.toNat ∧ ¬1024 ≤ f.deadTime.toNat := by omega
    have hmode := pairModeOf_some hm
    have hcode := pairModeOf_code hmode
    have htime : deadTimeOf f.deadTime = some f.deadTime.toNat := if_pos (by omega)
    have hcomplement : (if f.mode = 0#8 then PairMode.independent else .complement) = .complement ↔ f.mode = 1#8 := by
      have key : ∀ b : Byte, ¬2 ≤ b.toNat →
          ((if b = 0#8 then PairMode.independent else .complement) = .complement ↔ b = 1#8) := by decide
      exact key _ hm
    have hrefusal : s.pairRefusal m p (if f.mode = 0#8 then PairMode.independent else .complement) =
        if (s.line (lineA p)).owner ≠ some m ∨ (s.line (lineB p)).owner ≠ some m then some .notOwner
        else if (s.line (lineA p)).drive ≠ .disabled ∨ (s.line (lineB p)).drive ≠ .disabled then some .badState
        else if f.mode = 1#8 ∧ (s.line (lineA p)).cutEnable ≠ (s.line (lineB p)).cutEnable then some .badState
        else none := by
      simp only [State.pairRefusal, hcomplement]
    have hblock : blockOf (.pairConfig m f) (s.front m) =
        match s.pairRefusal m p (if f.mode = 0#8 then PairMode.independent else .complement) with
        | some st => (s.front m).refuse st
        | none => ((s.front m).setPair p
            { s.pair p with
              mode := if f.mode = 0#8 then .independent else .complement
              deadTime := f.deadTime.toNat },
            .ok ([f.mode] ++ bytes16 f.deadTime ++
              [flagCode (s.line (lineA p)).cutEnable, flagCode (s.line (lineB p)).cutEnable])) := by
      simp only [blockOf, takePairConfig, hix, hmode, htime, State.front_pairRefusal, State.front_line, State.front_pair,
        hcode, nat16_toNat] <;> rfl
    rw [hrefusal] at hblock
    split
    · next ho => exact exec_refuses rfl h (by rw [hblock, if_pos ho])
    next ho =>
    rw [if_neg ho] at hblock
    split
    · next hd => exact exec_refuses rfl h (by rw [hblock, if_pos hd])
    next hd =>
    rw [if_neg hd] at hblock
    split
    · next hc => exact exec_refuses rfl h (by rw [hblock, if_pos hc])
    next hc =>
    rw [if_neg hc] at hblock
    exact exec_answers rfl h hblock

end

section
/-! PROOF. The Cutoff Unit: trips and re-arms, the commands of it, its pin, and the removals that are the part's own act. -/
namespace Sys2Proof.Machine

/-! ### Trips and re-arms (R137 to R139) -/

theorem State.onCutLine_eq (s : State) :
    s.onCutLine = fun r => match r.target with | .output l => s.cuts l | _ => false := by
  funext r
  unfold State.onCutLine
  cases r.target <;> rfl

theorem Cutoff.see_eq (c : Cutoff) (src : CutSource) :
    c.see src =
      { c with
        trip :=
          match c.trip with
          | none => none
          | some r => some { r with seen := r.seen ||| 1#21 <<< src.bit } } := by
  unfold Cutoff.see
  cases c.trip <;> rfl

theorem State.cutLines_line (s : State) (l : OutLine) :
    s.cutLines.line l = if s.cuts l then { s.line l with drive := .cut, active := false } else s.line l := by
  unfold State.cutLines
  rw [State.changeLines_line, State.clearPairs_line]
  rfl

theorem State.cutLines_pair (s : State) (p : PairIx) :
    s.cutLines.pair p =
      if s.complement p && s.cuts (lineA p) then { s.pair p with state := none, record := none } else s.pair p :=
  State.clearPairs_pair s s.cuts p

theorem State.mayRearm_iff {s : State} :
    s.mayRearm = true ↔ s.cutoff.state = .tripped ∧ s.cutoff.asserted = 0#17 ∧ ∀ l, (s.line l).drive ≠ .cut := by
  have hcut : s.anyCut (BitVec.allOnes 8) = false ↔ ∀ l, (s.line l).drive ≠ .cut := by
    rw [← Bool.not_eq_true, State.anyCut_iff]
    exact ⟨fun h l hl => h ⟨l, (BitVec.getLsbD_allOnes).trans (decide_eq_true l.isLt), hl⟩, fun h ⟨l, _, hl⟩ => h l hl⟩
  unfold State.mayRearm
  rw [Bool.and_eq_true, Bool.and_eq_true, beq_iff_eq, beq_iff_eq, Bool.not_eq_true', hcut, and_assoc]

/-! ### Removals (R107 to R109) -/

theorem State.hand_frame {s u : State} (h : { u with queues := s.queues } = s) (m : Master) (n : Notice) :
    { u.hand m n with queues := s.queues } = s := by
  unfold State.hand
  split
  · exact h
  · exact h

theorem State.notifyCancelled_frame (s : State) (p : ActionRecord → Bool) (reason : CancelReason) (t : Timestamp) :
    { s.notifyCancelled p reason t with queues := s.queues } = s := by
  have key : ∀ (slots : List Slot) (u : State), { u with queues := s.queues } = s →
      { slots.foldl (fun u n =>
          match s.action n with
          | some r => if p r then u.hand r.owner (actionCancelled n r reason t) else u
          | none => u) u with queues := s.queues } = s := by
    intro slots
    induction slots with
    | nil => exact fun _ h => h
    | cons n slots ih =>
      intro u h
      rw [List.foldl_cons]
      refine ih _ ?_
      cases s.action n with
      | none => exact h
      | some r =>
        dsimp only
        split
        · exact State.hand_frame h _ _
        · exact h
  exact key _ s rfl

theorem State.dropRecords_frame (s : State) (p : ActionRecord → Bool) : { s.dropRecords p with actions := s.actions } = s := by
  unfold State.dropRecords
  rfl

theorem State.cancelRecords_frame (s : State) (p : ActionRecord → Bool) (reason : CancelReason) (t : Timestamp) :
    { s.cancelRecords p reason t with actions := s.actions, queues := s.queues } = s := by
  have h := s.notifyCancelled_frame p reason t
  have hactions : { s.cancelRecords p reason t with actions := s.actions, queues := s.queues } =
      { ({ s.notifyCancelled p reason t with queues := s.queues } : State) with actions := s.actions } := rfl
  rw [hactions, h]

theorem State.releaseLines_pair (s : State) (lines : LineSet) (p : PairIx) :
    (s.releaseLines lines).pair p =
      if (s.pair p).mode = .complement ∧ lines.getLsbD (lineA p).val = true then
        { s.pair p with state := none, record := none }
      else s.pair p := by
  have h : (s.releaseLines lines).pair p =
      if s.complement p && lines.getLsbD (lineA p).val then (s.pair p).cleared else s.pair p := by
    unfold State.releaseLines
    rw [State.changeLines_pair, State.clearPairs_pair]
  rw [h]
  refine if_congr ?_ rfl rfl
  rw [Bool.and_eq_true, State.complement, beq_iff_eq]

theorem State.releaseLines_frame (s : State) (lines : LineSet) :
    { s.releaseLines lines with lines := s.lines, pairs := s.pairs } = s := by
  unfold State.releaseLines State.changeLines State.clearPairs
  rfl

theorem State.ownedLines_getLsbD (s : State) (m : Master) (l : OutLine) :
    (s.ownedLines m).getLsbD l.val = decide ((s.line l).owner = some m) := by
  rw [State.ownedLines, setOf_getLsbD]
  exact Bool.eq_iff_iff.mpr (by rw [beq_iff_eq, decide_eq_true_iff])

theorem State.countRecords_eq (s : State) (p : ActionRecord → Bool) :
    s.countRecords p =
      ((List.finRange 32).filter fun n => match s.action n with | none => false | some r => p r).length := by
  have hselects : s.selects p = fun n => match s.action n with | none => false | some r => p r := by
    funext n
    unfold State.selects
    cases s.action n <;> rfl
  unfold State.countRecords countOf
  rw [List.countP_eq_length_filter, hselects]

theorem State.held_eq (s : State) (m : Master) : s.held m = s.countRecords fun r => r.owner == m := rfl

/-! ### CUT_FORCE and CUT_RESTORE (R141, R142) -/

theorem State.ownedLines_ne {s : State} {m : Master} : s.ownedLines m ≠ 0#8 ↔ ∃ l, (s.line l).owner = some m := by
  constructor
  · intro h
    by_contra hno
    refine h (BitVec.eq_of_getLsbD_eq fun i hi => ?_)
    rw [s.ownedLines_getLsbD m ⟨i, hi⟩, decide_eq_false fun e => hno ⟨_, e⟩]
    simp
  · rintro ⟨l, hl⟩ h
    have hin := s.ownedLines_getLsbD m l
    rw [h, decide_eq_true hl] at hin
    simp at hin

theorem allLines_false {lines : LineSet} {p : OutLine → Bool} :
    (!allLines lines p) = true ↔ ∃ l : OutLine, lines.getLsbD l.val = true ∧ p l = false := by
  unfold allLines
  rw [Bool.not_eq_true', List.all_eq_false]
  simp [List.mem_finRange]

theorem unaddressed_iff (s : State) (lines : LineSet) :
    (lines = 0#8 ∨ (!(allLines lines fun l => !s.complementB l)) = true) ↔
      (lines = 0#8 ∨ ∃ l : OutLine, lines.getLsbD l.val = true ∧ s.complementB l = true) := by
  simp only [allLines_false, Bool.not_eq_false']

theorem unowned_iff (s : State) (m : Master) (lines : LineSet) :
    (!(allLines lines fun l => (s.line l).owner == some m)) = true ↔
      ∃ l : OutLine, lines.getLsbD l.val = true ∧ (s.line l).owner ≠ some m := by
  simp only [allLines_false, beq_eq_false_iff_ne]

theorem uncut_iff (s : State) (lines : LineSet) :
    (!(allLines lines fun l => (s.line l).drive == .cut)) = true ↔
      ∃ l : OutLine, lines.getLsbD l.val = true ∧ (s.line l).drive ≠ .cut := by
  simp only [allLines_false, beq_eq_false_iff_ne]

/-! ### The cutoff pin (R134, R143) -/

theorem State.pinChanged_eq (s : State) (before : Bool) (t : Timestamp) :
    s.pinChanged before t =
      if before = false ∧ s.cutoff.pinAsserted = true then s.joinSource .pin t
      else if before = true ∧ s.cutoff.pinAsserted = false then s.leaveSource .pin t
      else s := by
  unfold State.pinChanged
  cases before <;> cases s.cutoff.pinAsserted <;> rfl

/-- The fields of the unit that configure its pin, and the pin's filter. -/
def Cutoff.pinPart (c : Cutoff) : Bool × Level × Filter := (c.pinEnable, c.pinActive, c.filter)

theorem State.trip_pinPart (s : State) (src : CutSource) (t : Timestamp) :
    (s.trip src t).cutoff.pinPart = s.cutoff.pinPart := by
  refine (State.inAnyOrder_field (fun u => u.cutoff.pinPart) (fun _ => rfl) fun f hf u => ?_).trans rfl
  rcases List.mem_append.mp hf with hf | hf
  · obtain ⟨-, hf⟩ := mem_unless.mp hf
    rw [List.mem_singleton.mp hf, State.cancelRecords_cutoff]
  · rw [List.mem_singleton.mp hf, State.cutoffChange_cutoff]

theorem State.sourceAsserts_pinPart (s : State) (src : CutSource) (t : Timestamp) :
    (s.sourceAsserts src t).cutoff.pinPart = s.cutoff.pinPart := by
  unfold State.sourceAsserts
  split
  · exact s.trip_pinPart src t
  · rfl

theorem State.rearmCheck_pinPart (s : State) (t : Timestamp) : (s.rearmCheck t).cutoff.pinPart = s.cutoff.pinPart := by
  unfold State.rearmCheck
  split
  · rw [State.cutoffChange_cutoff]
    rfl
  · rfl

theorem State.pinChanged_pinPart (s : State) (before : Bool) (t : Timestamp) :
    (s.pinChanged before t).cutoff.pinPart = s.cutoff.pinPart := by
  rw [State.pinChanged_eq]
  split
  · exact (State.sourceAsserts_pinPart _ _ _).trans rfl
  · split
    · exact (State.rearmCheck_pinPart _ _).trans rfl
    · rfl

/-- What CUT_CONFIG answers (R143), by the pin's part and the state of the unit. -/
theorem Cutoff.configAnswer_of_pinPart {c d : Cutoff} (h : c.pinPart = d.pinPart) :
    c.configAnswer =
      .ok ([flagCode d.pinEnable, levelCode d.pinActive, nat8 d.filter.length] ++ nat16 d.filter.interval ++
        [levelCode d.filter.level, flagCode d.pinAsserted, cutStateCode c.state]) := by
  simp only [Cutoff.pinPart, Prod.mk.injEq] at h
  obtain ⟨he, ha, hf⟩ := h
  rw [Cutoff.configAnswer, Cutoff.pinAsserted, Cutoff.pinAsserted, he, ha, hf]

theorem State.mayConfigurePin_iff {s : State} {m : Master} :
    s.mayConfigurePin m = true ↔ ∀ h, s.supervisor = some h → h = m := by
  unfold State.mayConfigurePin
  cases hs : s.supervisor <;> simp

theorem pinSettingsOf_none {f : CutFields} :
    pinSettingsOf f = none ↔ 2 ≤ f.pinEnable.toNat ∨ 2 ≤ f.activeLevel.toNat ∨ 16 ≤ f.filterLength.toNat ∨
      ¬(f.interval.toNat = 1 ∨ f.interval.toNat = 8 ∨ f.interval.toNat = 64 ∨ f.interval.toNat = 512) := by
  rw [← switchOf_none, ← levelOf_none, ← filterLengthOf_none, ← intervalOf_none]
  unfold pinSettingsOf
  cases switchOf f.pinEnable <;> cases levelOf f.activeLevel <;> cases filterLengthOf f.filterLength <;>
    cases intervalOf f.interval <;> simp

/-- What CUT_CONFIG writes, where no field is refused. -/
def pinSettingsFrom (f : CutFields) : PinSettings where
  enable := f.pinEnable == 1#8
  activeLevel := if f.activeLevel = 0#8 then .low else .high
  length := f.filterLength.toNat
  interval := f.interval.toNat

theorem levelOf_eq {b : Byte} (h : ¬2 ≤ b.toNat) : levelOf b = some (if b = 0#8 then .low else .high) := by
  have key : ∀ b : Byte, ¬2 ≤ b.toNat → levelOf b = some (if b = 0#8 then .low else .high) := by decide
  exact key b h

theorem intervalOf_eq {w : BitVec 16} (h : w.toNat = 1 ∨ w.toNat = 8 ∨ w.toNat = 64 ∨ w.toNat = 512) :
    intervalOf w = some w.toNat := by
  obtain ⟨k, hk⟩ := Option.ne_none_iff_exists'.mp (mt intervalOf_none.mp (not_not.mpr h))
  rw [hk, intervalOf_some hk]

theorem pinSettingsOf_some {f : CutFields}
    (h : ¬(2 ≤ f.pinEnable.toNat ∨ 2 ≤ f.activeLevel.toNat ∨ 16 ≤ f.filterLength.toNat ∨
      ¬(f.interval.toNat = 1 ∨ f.interval.toNat = 8 ∨ f.interval.toNat = 64 ∨ f.interval.toNat = 512))) :
    pinSettingsOf f = some (pinSettingsFrom f) ∧ flagCode (pinSettingsFrom f).enable = f.pinEnable ∧
      levelCode (pinSettingsFrom f).activeLevel = f.activeLevel := by
  rw [not_or, not_or, not_or, not_not] at h
  obtain ⟨he, ha, hl, hi⟩ := h
  have henable : switchOf f.pinEnable = some (pinSettingsFrom f).enable := switchOf_eq (by omega)
  have hactive : levelOf f.activeLevel = some (pinSettingsFrom f).activeLevel := levelOf_eq ha
  have hlength : filterLengthOf f.filterLength = some f.filterLength.toNat := if_pos (by omega)
  refine ⟨?_, switchOf_code henable, levelOf_code hactive⟩
  unfold pinSettingsOf
  rw [henable, hactive, hlength, intervalOf_eq hi]
  rfl

/-- One sample of the cutoff pin, before the asserted condition is compared. -/
def State.pinSampled (s : State) (x : Level) : State :=
  { s.setCutoff { s.cutoff with filter := s.cutoff.filter.take x } with cutoffPin := x }

theorem State.sampleCutoff_eq (s : State) (x : Level) :
    s.sampleCutoff x =
      if s.cutoff.filter.qualifies x then (s.pinSampled x).pinChanged s.cutoff.pinAsserted s.now else s.pinSampled x := rfl

/-- R134: what a qualified change of the pin does, by the enable and the active level. -/
theorem State.pinChanged_of_qualified {s : State} {x : Level} (hq : s.cutoff.filter.qualifies x = true) :
    (s.pinSampled x).pinChanged s.cutoff.pinAsserted s.now =
      if s.cutoff.pinEnable = false then s.pinSampled x
      else if x = s.cutoff.pinActive then (s.pinSampled x).joinSource .pin s.now
      else (s.pinSampled x).leaveSource .pin s.now := by
  have hx : x ≠ s.cutoff.filter.level := (Filter.qualifies_iff.mp hq).2.1
  have hafter : (s.pinSampled x).cutoff.pinAsserted = (s.cutoff.pinEnable && x == s.cutoff.pinActive) := by
    have hcutoff : (s.pinSampled x).cutoff = { s.cutoff with filter := s.cutoff.filter.take x } := rfl
    rw [hcutoff, Filter.take_qualified hq]
    rfl
  have hbefore : s.cutoff.pinAsserted = (s.cutoff.pinEnable && !(x == s.cutoff.pinActive)) := by
    have hother : (s.cutoff.filter.level == s.cutoff.pinActive) = !(x == s.cutoff.pinActive) := by
      revert hx
      cases x <;> cases s.cutoff.filter.level <;> cases s.cutoff.pinActive <;> decide
    rw [Cutoff.pinAsserted, hother]
  rw [State.pinChanged_eq, hafter, hbefore]
  cases s.cutoff.pinEnable with
  | false => simp
  | true => by_cases ha : x = s.cutoff.pinActive <;> simp [ha]

theorem exec_cutoffPinSample {s : State} (hr : s.resetHeld = false) (x : Level) :
    exec (.cutoffPinSample x) s = .next (s.sampleCutoff x) := congrArg _ (State.event_released _ hr)

theorem exec_cutoffPinQualification {s : State} (hr : s.resetHeld = false) (x : Level) :
    exec (.cutoffPinQualification x) s = .next (if s.cutoff.filter.qualifies x then s.sampleCutoff x else s) :=
  congrArg _ (State.event_released _ hr)

end Sys2Proof.Machine

open Sys2Proof Sys2Proof.Machine

/-- Settles O45: a trip with its hand-offs, the re-arm, and what joins, leaves and momentary sources do. -/
theorem cutoffTripsAndRearms : Obligations.CutoffTripsAndRearms := by
  unfold Obligations.CutoffTripsAndRearms
  refine ⟨fun s src t => ⟨fun hs => ?_, fun hs => ?_⟩, fun s t => ⟨fun hno => ?_, fun hholds => ?_⟩,
    fun s src t => ⟨rfl, rfl, rfl⟩, fun _ => rfl, rfl, fun _ => rfl⟩
  · unfold State.sourceAsserts
    rw [hs, Cutoff.see_eq] <;> rfl
  · refine ⟨s.cutLines.setCutoff { s.cutoff with state := .tripped, trip := some ⟨src, t, single src.bit⟩ }, rfl,
      s.cutLines_line, s.cutLines_pair, rfl, ?_⟩
    have htrip : s.sourceAsserts src t = s.trip src t := by
      unfold State.sourceAsserts
      rw [hs]
    have hafter := State.inAnyOrder_afterAll
      (s.cutLines.setCutoff { s.cutoff with state := .tripped, trip := some ⟨src, t, single src.bit⟩ })
      ((if s.countRecords s.onCutLine = 0 then [] else [fun u => u.cancelRecords s.onCutLine .cutoff t]) ++
        [fun u => u.cutoffChange .tripped (some ⟨src, t, single src.bit⟩) t])
    rw [State.onCutLine_eq] at hafter
    rw [htrip]
    unfold State.trip
    rw [State.onCutLine_eq]
    exact hafter
  · unfold State.rearmCheck
    rw [if_neg (mt State.mayRearm_iff.mp hno)]
  · unfold State.rearmCheck
    rw [if_pos (State.mayRearm_iff.mpr hholds)]
    rfl

/-- Settles O46: the records that go, the notices of it, and the released lines with their pairs. -/
theorem removalByThePartTellsTheOwners : Obligations.RemovalByThePartTellsTheOwners := by
  unfold Obligations.RemovalByThePartTellsTheOwners
  refine ⟨fun s p reason t => ⟨s.cancelRecords_frame p reason t, fun n => ?_, fun m => ?_⟩,
    fun s p => ⟨s.dropRecords_frame p, fun n => ?_⟩, fun s lines => ?_,
    fun s => ⟨s.ownedLines_getLsbD, fun _ => State.anyCut_iff, s.countRecords_eq, s.held_eq⟩⟩
  · rw [State.cancelRecords_action]
    cases s.action n <;> rfl
  · rw [State.cancelRecords, State.dropRecords_queue, State.notifyCancelled_queue]
    congr 1
    funext q n
    cases s.action n <;> rfl
  · rw [State.dropRecords_action]
    cases s.action n <;> rfl
  · exact ⟨s.releaseLines_frame lines, s.releaseLines_line lines, s.releaseLines_pair lines⟩

/-- Settles O47: a forced trip by a line's owner or the supervisor, and the restore of CUT lines, check by check. -/
theorem cutForceAndCutRestoreAct : Obligations.CutForceAndCutRestoreAct := by
  unfold Obligations.CutForceAndCutRestoreAct
  refine ⟨fun m s h => ?_, fun m lines s h => ?_⟩
  · dsimp only
    rw [← State.ownedLines_ne]
    refine ⟨fun hno => exec_refuses rfl h (by
        simp only [blockOf, takeCutForce, State.front_ownedLines, State.front_supervisor, hno, if_false]),
      fun hmay => exec_answers rfl h ?_⟩
    have hflag : flagCode (s.cutoff.state == .armed) = if s.cutoff.state = .armed then 1#8 else 0#8 := by
      cases s.cutoff.state <;> rfl
    simp only [blockOf, takeCutForce, State.front_ownedLines, State.front_supervisor, State.front_cutoff, State.front_now, hmay,
      if_true, hflag]
    rfl
  · dsimp only
    refine ⟨s.wholePairs_getLsbD lines, ?_⟩
    have hrefusal : s.restoreRefusal m lines =
        if lines = 0#8 ∨ (!(allLines lines fun l => !s.complementB l)) = true then some .badArg
        else if (!(allLines lines fun l => (s.line l).owner == some m)) = true then some .notOwner
        else if (!(allLines lines fun l => (s.line l).drive == .cut)) = true then some .badArg
        else if s.cutoff.asserted ≠ 0#17 then some .active
        else none := rfl
    have refuses {st : Status} (hst : s.restoreRefusal m lines = some st) :
        blockOf (.cutRestore m lines) (s.front m) = (s.front m).refuse st := by
      simp only [blockOf, takeCutRestore, State.front_restoreRefusal, hst]
    split
    · next ha =>
      rw [if_pos ((unaddressed_iff s lines).mpr ha)] at hrefusal
      exact exec_refuses rfl h (refuses hrefusal)
    next ha =>
    rw [if_neg (mt (unaddressed_iff s lines).mp ha)] at hrefusal
    split
    · next ho =>
      rw [if_pos ((unowned_iff s m lines).mpr ho)] at hrefusal
      exact exec_refuses rfl h (refuses hrefusal)
    next ho =>
    rw [if_neg (mt (unowned_iff s m lines).mp ho)] at hrefusal
    split
    · next hd =>
      rw [if_pos ((uncut_iff s lines).mpr hd)] at hrefusal
      exact exec_refuses rfl h (refuses hrefusal)
    next hd =>
    rw [if_neg (mt (uncut_iff s lines).mp hd)] at hrefusal
    split
    · next hc =>
      rw [if_pos hc] at hrefusal
      exact exec_refuses rfl h (refuses hrefusal)
    next hc =>
    rw [if_neg hc] at hrefusal
    refine exec_answers rfl h ?_
    simp only [blockOf, takeCutRestore, State.front_restoreRefusal, hrefusal, State.restoreLines, State.front_wholePairs,
      State.front_now]
    rfl

/-- Settles O48: CUT_CONFIG and a sample of the pin, each compared with the asserted condition before it. -/
theorem cutoffPinIsSampledAndCompared : Obligations.CutoffPinIsSampledAndCompared := by
  unfold Obligations.CutoffPinIsSampledAndCompared
  refine ⟨fun m f s h => ?_, fun x s hr => ?_⟩
  · dsimp only
    have heldBy : (∃ h, s.supervisor = some h ∧ h ≠ m) → s.mayConfigurePin m = false := fun ⟨k, hk, hne⟩ => by
      rw [← Bool.not_eq_true]
      exact fun hmay => hne (State.mayConfigurePin_iff.mp hmay k hk)
    refine ⟨fun hno => exec_refuses rfl h (by simp [blockOf, takeCutConfig, heldBy hno]), fun hmay hbad => ?_, fun hmay hgood => ?_⟩
    · have hallowed := State.mayConfigurePin_iff.mpr hmay
      exact exec_refuses rfl h (by simp [blockOf, takeCutConfig, hallowed, pinSettingsOf_none.mpr hbad])
    · have hallowed := State.mayConfigurePin_iff.mpr hmay
      obtain ⟨hsettings, henable, hactive⟩ := pinSettingsOf_some hgood
      have hconfigured := State.pinChanged_pinPart ((s.front m).setCutoff (s.cutoff.configure (pinSettingsFrom f)))
        s.cutoff.pinAsserted s.now
      have hblock : blockOf (.cutConfig m f) (s.front m) =
          (((s.front m).setCutoff (s.cutoff.configure (pinSettingsFrom f))).pinChanged s.cutoff.pinAsserted s.now,
            .ok ([f.pinEnable, f.activeLevel, f.filterLength] ++ bytes16 f.interval ++
              [levelCode s.cutoff.filter.level, flagCode (s.cutoff.configure (pinSettingsFrom f)).pinAsserted,
                cutStateCode (((s.front m).setCutoff (s.cutoff.configure (pinSettingsFrom f))).pinChanged
                  s.cutoff.pinAsserted s.now).cutoff.state])) := by
        simp only [blockOf, takeCutConfig, State.front_mayConfigurePin, hallowed, hsettings, State.front_cutoff,
          State.front_now, Bool.not_true, Bool.false_eq_true, if_false]
        rw [Cutoff.configAnswer_of_pinPart (d := s.cutoff.configure (pinSettingsFrom f)) hconfigured]
        simp only [Cutoff.configure, henable, hactive]
        rw [show (pinSettingsFrom f).length = f.filterLength.toNat from rfl,
          show (pinSettingsFrom f).interval = f.interval.toNat from rfl, nat8_toNat, nat16_toNat]
      rw [exec_answers rfl h hblock, State.pinChanged_eq]
      rfl
  · dsimp only
    rw [exec_cutoffPinSample hr, exec_cutoffPinQualification hr, State.sampleCutoff_eq]
    refine ⟨fun hl => ?_, fun hl hx => ?_, fun hl hx hrun => ?_, fun h => ?_, fun hl hx hrun => ?_⟩
    · have hq : ¬s.cutoff.filter.qualifies x = true := fun hq => by
        rw [(Filter.qualifies_iff.mp hq).1] at hl
        cases hl
      rw [if_neg hq, State.pinSampled, Filter.take_unloaded hl]
      rfl
    · have hq : ¬s.cutoff.filter.qualifies x = true := fun hq => (Filter.qualifies_iff.mp hq).2.1 hx
      rw [if_neg hq, State.pinSampled, Filter.take_steady hl hx]
      rfl
    · have hq : ¬s.cutoff.filter.qualifies x = true := fun hq =>
        absurd (Filter.qualifies_iff.mp hq).2.2 (Nat.not_le.mpr hrun)
      rw [if_neg hq, State.pinSampled, Filter.take_counted hl hx hrun]
      rfl
    · have hq : ¬s.cutoff.filter.qualifies x = true := fun hq => by
        obtain ⟨hl, hx, hrun⟩ := Filter.qualifies_iff.mp hq
        rcases h with h | h | h
        · rw [hl] at h
          cases h
        · exact hx h
        · omega
      rw [if_neg hq]
    · have hq := Filter.qualifies_iff.mpr ⟨hl, hx, hrun⟩
      have hsampled : s.pinSampled x = { s with cutoffPin := x, cutoff := { s.cutoff with
          filter := { s.cutoff.filter with divider := 0, sample := x, level := x, run := 0 } } } := by
        rw [State.pinSampled, Filter.take_qualified hq]
        rfl
      rw [if_pos hq, if_pos hq, State.pinChanged_of_qualified hq, hsampled]
      exact ⟨rfl, rfl⟩

end

section
/-! PROOF. The rights unit: SUPV_CLAIM, LABEL_WRITE, RIGHTS_READ and RIGHTS_WRITE. -/
namespace Sys2Proof.Machine

theorem revokes_eq (m : Master) (lines : LineSet) (entries : EntrySet) :
    revokes m lines entries = fun r =>
      match r.target with
      | .output l => lines.getLsbD l.val
      | .capture k => r.owner == m && entries.getLsbD k.val
      | .absent => false := by
  funext r
  unfold revokes
  cases r.target <;> rfl

theorem rightsSettingsOf_none {f : RightsFields} (h : 4 ≤ f.master.toNat ∨ 32 < f.quota.toNat ∨ 1 < f.timebase.toNat) :
    rightsSettingsOf f = none := by
  unfold rightsSettingsOf
  rcases h with h | h | h
  · rw [indexOf_none.mpr h]
  · have hquota : ¬f.quota.toNat ≤ Config.quotaCeiling := Nat.not_le.mpr h
    cases indexOf 4 f.master <;> cases switchOf f.timebase <;> simp [hquota]
  · rw [switchOf_none.mpr h]
    cases indexOf 4 f.master <;> rfl

theorem rightsSettingsOf_some {f : RightsFields} {n : Master} (hm : f.master.toNat = n.val) (hq : f.quota.toNat ≤ 32)
    (ht : f.timebase.toNat ≤ 1) :
    rightsSettingsOf f = some ⟨n, ⟨f.entries, f.lines, f.quota.toNat, f.timebase == 1#8⟩⟩ := by
  unfold rightsSettingsOf
  rw [indexOf_eq hm, switchOf_eq ht]
  exact if_pos hq

end Sys2Proof.Machine

open Sys2Proof Sys2Proof.Machine

/-- Settles O49: the four commands of the rights unit, check by check, and what a withdrawal removes. -/
theorem rightsUnitCommandsAct : Obligations.RightsUnitCommandsAct := by
  unfold Obligations.RightsUnitCommandsAct
  refine ⟨fun m s => ⟨fun h => ⟨fun hnone => exec_answers rfl h ?_, fun k hk => exec_answers rfl h ?_⟩, fun label h => ?_,
    fun x h => ⟨fun hx => ?_, fun n hx => ?_⟩⟩, fun m f s h => ⟨fun hno => ?_, fun hs hbad => ?_, fun n hs hm hq ht => ?_⟩⟩
  · simp [blockOf, takeSupvClaim, hnone]
  · simp [blockOf, takeSupvClaim, hk]
  · split
    · next hs => exact exec_refuses rfl h (by simp [blockOf, takeLabelWrite, hs])
    next hs =>
    rw [not_not] at hs
    cases hl : s.label with
    | some l => exact exec_refuses rfl h (by simp [blockOf, takeLabelWrite, hs, hl])
    | none => exact exec_answers rfl h (by simp [blockOf, takeLabelWrite, hs, hl])
  · exact exec_refuses rfl h (by simp [blockOf, takeRightsRead, indexOf_none.mpr hx])
  · split
    · next hs =>
      have hno : ¬(n = m ∨ s.supervisor = some m) := fun h => h.elim hs.1 hs.2
      exact exec_refuses rfl h (by
        simp only [blockOf, takeRightsRead, indexOf_eq hx, State.front_supervisor, hno, if_false])
    next hs =>
    have hmay : n = m ∨ s.supervisor = some m := by
      by_contra hno
      exact hs ⟨fun e => hno (.inl e), fun e => hno (.inr e)⟩
    refine exec_answers rfl h ?_
    simp only [blockOf, takeRightsRead, indexOf_eq hx, State.front_supervisor, hmay, if_true, State.front_right, State.front_held,
      State.front_quotaSum, rightsBytes, nat8_index hx]
    rfl
  · exact exec_refuses rfl h (by simp [blockOf, takeRightsWrite, hno])
  · exact exec_refuses rfl h (by simp [blockOf, takeRightsWrite, hs, rightsSettingsOf_none hbad])
  · dsimp only
    have hsettings := rightsSettingsOf_some hm hq ht
    have hflag : flagCode (f.timebase == 1#8) = f.timebase := switchOf_code (switchOf_eq ht)
    generalize hc : (⟨n, ⟨f.entries, f.lines, f.quota.toNat, f.timebase == 1#8⟩⟩ : RightsSettings) = c at hsettings
    have hrefusal : s.rightsRefusal c =
        if f.quota.toNat < s.held n then some .inUse
        else if 32 < s.quotaSum - (s.right n).quota + f.quota.toNat then some .full
        else none := by
      subst hc
      rfl
    have refuses {st : Status} (hst : s.rightsRefusal c = some st) :
        blockOf (.rightsWrite m f) (s.front m) = (s.front m).refuse st := by
      simp [blockOf, takeRightsWrite, hs, hsettings, hst]
    refine ⟨fun hheld => exec_refuses rfl h (refuses (hrefusal.trans (if_pos hheld))), fun hheld hsum =>
      exec_refuses rfl h (refuses (hrefusal.trans ?_)), fun hheld hsum => ⟨(s.front m).writeRights c, exec_answers rfl h ?_, ?_⟩⟩
    · rw [if_neg (Nat.not_lt.mpr hheld)]
      exact if_pos hsum
    · have hpassed : s.rightsRefusal c = none := by
        rw [hrefusal, if_neg (Nat.not_lt.mpr hheld)]
        exact if_neg (Nat.not_lt.mpr hsum)
      simp only [blockOf, takeRightsWrite, State.front_supervisor, hs, ne_eq, not_true_eq_false, if_false, hsettings,
        State.front_rightsRefusal, hpassed, State.front_withdrawnLines, State.front_withdrawnEntries, State.front_countRecords,
        revokes_eq]
      subst hc
      simp only [rightsBytes, nat8_toNat, nat8_index hm, hflag]
      rfl
    · unfold State.writeRights
      simp only [State.front_withdrawnLines, State.front_withdrawnEntries, State.front_countRecords, State.front_anyCut,
        State.front_now, revokes_eq]
      subst hc
      exact State.inAnyOrder_afterAll _ _

end

section
/-! PROOF. The Action Schedule: firings, pulse ends, completions, and the logical order of the slots. -/
namespace Sys2Proof.Machine

/-! ### Firings and pulse ends (R95 to R98) -/

theorem exec_actionFiring {s : State} (hr : s.resetHeld = false) (n : Slot) :
    exec (.actionFiring n) s = .next (s.takeFire n) := congrArg _ (State.event_released _ hr)

theorem exec_pulseEnd {s : State} (hr : s.resetHeld = false) (n : Slot) :
    exec (.pulseEnd n) s = .next (s.takeEnd n) := congrArg _ (State.event_released _ hr)

theorem State.takeFire_other {s : State} {n : Slot} (h : s.nextFire ≠ some n) : s.takeFire n = s := if_neg h

theorem State.takeEnd_other {s : State} {n : Slot} (h : s.nextEnd ≠ some n) : s.takeEnd n = s := if_neg h

theorem State.takeFire_next {s : State} {n : Slot} {r : ActionRecord} (h : s.nextFire = some n) (hr : s.action n = some r) :
    s.takeFire n = s.fire n r s.timebase.announced := by
  unfold State.takeFire
  rw [if_pos h, hr]

theorem State.takeEnd_next {s : State} {n : Slot} {r : ActionRecord} (h : s.nextEnd = some n) (hr : s.action n = some r) :
    s.takeEnd n = s.endPulse n r s.timebase.announced := by
  unfold State.takeEnd
  rw [if_pos h, hr]

theorem ActionRecord.otherWidth_eq (r : ActionRecord) :
    r.otherWidth = if r.widthB = none then r.nextWidth else if r.nextWidth = .a then .b else .a := by
  unfold ActionRecord.otherWidth
  cases r.widthB <;> cases r.nextWidth <;> rfl

theorem State.fire_eq (s : State) (n : Slot) (r : ActionRecord) (t : Timestamp) :
    s.fire n r t =
      match r.kind with
      | .set => (s.requestTarget r .active).complete n r t
      | .clear => (s.requestTarget r .inactive).complete n r t
      | .toggle => (s.requestTarget r .toggle).complete n r t
      | .gateOpen =>
        (match r.target with
        | .capture k => s.setCapture k { s.capture k with gate := .opened }
        | _ => s).complete n r t
      | .mark => s.complete n r t
      | .pulse =>
        (s.requestTarget r .active).setAction n
          (some
            { r with
              phase := .active (r.due +
                BitVec.ofNat 32 (match r.nextWidth with | .a => r.widthA.getD 0 | .b => r.widthB.getD 0)) }) := by
  unfold State.fire State.openTarget ActionRecord.currentWidth
  cases r.kind <;> cases r.target <;> cases r.nextWidth <;> rfl

/-! ### Completions (R97) -/

theorem ActionRecord.repeats_iff (r : ActionRecord) :
    r.counted.repeats = true ↔ r.period ≠ 0 ∧ (r.remaining.map fun k => k - 1) ≠ some 0 := by
  unfold ActionRecord.repeats ActionRecord.counted
  rw [Bool.and_eq_true, bne_iff_ne, bne_iff_ne]

theorem State.complete_frame (s : State) (n : Slot) (r : ActionRecord) (t : Timestamp) :
    { s.complete n r t with actions := s.actions, queues := s.queues } = s := by
  have hset {u : State} (x : Option ActionRecord) (h : { u with actions := s.actions, queues := s.queues } = s) :
      { u.setAction n x with actions := s.actions, queues := s.queues } = s := h
  have hhand {u : State} (m : Master) (x : Notice) (h : { u with actions := s.actions, queues := s.queues } = s) :
      { u.hand m x with actions := s.actions, queues := s.queues } = s := by
    unfold State.hand
    split
    · exact h
    · exact h
  have heach : { (if r.notify = .each then s.hand r.owner (actionDone n r.counted t) else s) with
      actions := s.actions, queues := s.queues } = s := by
    split
    · exact hhand _ _ rfl
    · rfl
  unfold State.complete
  dsimp only
  split
  · exact hset _ heach
  · split
    · exact hhand _ _ (hset _ heach)
    · exact hset _ heach

/-! ### The logical order (R88, R104) -/

theorem State.notAfter_iff {s : State} {a b : Slot} :
    s.notAfter a b = true ↔
      (s.nextOf a).1 < (s.nextOf b).1 ∨ ((s.nextOf a).1 = (s.nextOf b).1 ∧ a.val ≤ b.val) := by
  have hslot (n : Slot) : (s.nextOf n).2 = n.val := by
    unfold State.nextOf
    cases s.action n <;> rfl
  unfold State.notAfter
  rw [Bool.or_eq_true, Bool.and_eq_true, decide_eq_true_iff, beq_iff_eq, decide_eq_true_iff, hslot, hslot]

theorem State.insertSlot_eq (s : State) (a : Slot) (l : List Slot) :
    s.insertSlot a l = l.orderedInsert (fun a b => s.notAfter a b = true) a := by
  induction l with
  | nil => rfl
  | cons b l ih => rw [State.insertSlot, List.orderedInsert_cons, ih]

theorem State.ownSlots_eq (s : State) (m : Master) :
    s.ownSlots m =
      ((List.finRange 32).filter (s.selects fun r => r.owner == m)).insertionSort fun a b => s.notAfter a b = true := by
  unfold State.ownSlots List.insertionSort
  congr 1
  funext a l
  exact s.insertSlot_eq a l

theorem State.ownSlots_perm (s : State) (m : Master) :
    (s.ownSlots m).Perm ((List.finRange 32).filter (s.selects fun r => r.owner == m)) := by
  rw [State.ownSlots_eq]
  exact List.perm_insertionSort _ _

theorem State.notAfter_total (s : State) : Std.Total fun a b : Slot => s.notAfter a b = true :=
  ⟨fun a b => by
    simp only [State.notAfter_iff]
    omega⟩

theorem State.notAfter_trans (s : State) : IsTrans Slot fun a b => s.notAfter a b = true :=
  ⟨fun a b c hab hbc => by
    rw [State.notAfter_iff] at hab hbc ⊢
    omega⟩

theorem State.ownSlots_sorted (s : State) (m : Master) :
    (s.ownSlots m).Pairwise fun a b => s.notAfter a b = true := by
  have := s.notAfter_total
  have := s.notAfter_trans
  rw [State.ownSlots_eq]
  exact List.pairwise_insertionSort _ _

theorem State.ownSlots_nodup (s : State) (m : Master) : (s.ownSlots m).Nodup :=
  (s.ownSlots_perm m).nodup_iff.mpr ((List.nodup_finRange 32).filter _)

theorem State.mem_ownSlots {s : State} {m : Master} {n : Slot} :
    n ∈ s.ownSlots m ↔ ∃ r, s.action n = some r ∧ r.owner = m := by
  rw [(s.ownSlots_perm m).mem_iff, List.mem_filter]
  unfold State.selects
  cases s.action n <;> simp

theorem State.ownSlots_length (s : State) (m : Master) : (s.ownSlots m).length = s.held m := by
  rw [(s.ownSlots_perm m).length_eq, State.held_eq, State.countRecords, countOf, List.countP_eq_length_filter]

theorem State.front_ownSlots (s : State) (k m : Master) : (s.front k).ownSlots m = s.ownSlots m := by
  have hselects : (s.front k).selects (fun r => r.owner == m) = s.selects fun r => r.owner == m :=
    funext fun n => s.front_selects k _ n
  have hnext (n : Slot) : (s.front k).nextOf n = s.nextOf n := by
    unfold State.nextOf
    rw [State.front_action, State.front_timebase]
  have hafter (a b : Slot) : (s.front k).notAfter a b = s.notAfter a b := by
    unfold State.notAfter
    rw [hnext, hnext]
  have hinsert : (s.front k).insertSlot = s.insertSlot := by
    funext a l
    induction l with
    | nil => rfl
    | cons b l ih => rw [State.insertSlot, State.insertSlot, hafter, ih]
  unfold State.ownSlots
  rw [hselects, hinsert]

end Sys2Proof.Machine

open Sys2Proof Sys2Proof.Machine

/-- Settles O38: which slot fires or ends at an announced count, and what that does by the kind of its record. -/
theorem firingsAndPulseEndsActByKind : Obligations.FiringsAndPulseEndsActByKind := by
  unfold Obligations.FiringsAndPulseEndsActByKind
  refine ⟨fun n s => ⟨State.fireDue_iff, State.endDue_iff⟩, fun n s hr => ⟨fun hno => ?_, fun r hn hrun hp hdue => ?_⟩,
    fun n s hr => ⟨fun hno => ?_, fun r hn hrun hp => ?_⟩⟩
  · have hother : s.nextFire ≠ some n := fun h => by
      rw [(State.nextFire_some.mp h).2.1] at hno
      cases hno
    rw [exec_actionFiring hr, State.takeFire_other hother]
  · have hfire : s.fireDue n = true := State.fireDue_iff.mpr ⟨hrun, r, hn, hp, hdue⟩
    refine ⟨fun hearlier => ?_, fun hends hfires => ?_⟩
    · have hother : s.nextFire ≠ some n := fun h => by
        obtain ⟨hends, -, hfires⟩ := State.nextFire_some.mp h
        rcases hearlier with ⟨k, hk⟩ | ⟨k, hlt, hk⟩
        · exact Bool.false_ne_true ((hends k).symm.trans hk)
        · exact Bool.false_ne_true ((hfires k hlt).symm.trans hk)
      rw [exec_actionFiring hr, State.takeFire_other hother]
    · rw [exec_actionFiring hr, State.takeFire_next (State.nextFire_some.mpr ⟨hends, hfire, hfires⟩) hn, State.fire_eq,
        ← hdue] <;> rfl
  · have hother : s.nextEnd ≠ some n := fun h => by
      rw [(State.nextEnd_some.mp h).1] at hno
      cases hno
    rw [exec_pulseEnd hr, State.takeEnd_other hother]
  · have hend : s.endDue n = true := State.endDue_iff.mpr ⟨hrun, r, hn, hp⟩
    refine ⟨fun ⟨k, hlt, hk⟩ => ?_, fun hends => ?_⟩
    · have hother : s.nextEnd ≠ some n := fun h =>
        Bool.false_ne_true (((State.nextEnd_some.mp h).2 k hlt).symm.trans hk)
      rw [exec_pulseEnd hr, State.takeEnd_other hother]
    · rw [exec_pulseEnd hr, State.takeEnd_next (State.nextEnd_some.mpr ⟨hend, hends⟩) hn, State.endPulse,
        ActionRecord.otherWidth_eq]

/-- Settles O39: the completion re-arms the record, with its staged update, or removes it, and hands on one notice at most. -/
theorem firingCompletesOnceAndRearms : Obligations.FiringCompletesOnceAndRearms := by
  unfold Obligations.FiringCompletesOnceAndRearms
  intro s n r t
  dsimp only
  rw [← ActionRecord.repeats_iff]
  refine ⟨s.complete_frame n r t, fun k hk => ?_, fun hlast => ?_, fun hagain hstaged => ?_, fun hagain u hstaged => ?_, fun m => ?_⟩
  · rw [State.complete_action, if_neg hk]
  · rw [State.complete_action, if_pos rfl, if_neg hlast]
  · rw [State.complete_action, if_pos rfl, if_pos hagain]
    simp only [ActionRecord.rearm, ActionRecord.takeStaged, ActionRecord.counted, hstaged]
  · rw [State.complete_action, if_pos rfl, if_pos hagain]
    simp only [ActionRecord.rearm, ActionRecord.takeStaged, ActionRecord.counted, hstaged]
    cases u.widthB <;> rfl
  · rw [State.complete_queue, Bool.not_eq_true]
    refine ⟨fun h => ?_, fun h => if_neg h⟩
    rw [if_pos h]
    rfl

/-- Settles O37: the caller's slots, once each, in the order of the next event times and then of the slots. -/
theorem actListGivesTheLogicalOrder : Obligations.ActListGivesTheLogicalOrder := by
  unfold Obligations.ActListGivesTheLogicalOrder
  intro m s h
  refine ⟨s.ownSlots m, exec_answers rfl h ?_, s.ownSlots_nodup m, s.ownSlots_length m, fun _ => State.mem_ownSlots, ?_⟩
  · simp only [blockOf, takeActList, State.front_held, State.front_right, State.front_now, State.front_ownSlots]
    rfl
  · refine ((s.ownSlots_sorted m).and (s.ownSlots_nodup m)).imp fun {a b} hab x y hx hy => ?_
    obtain ⟨hafter, hne⟩ := hab
    rw [State.notAfter_iff] at hafter
    simp only [State.nextOf, hx, hy] at hafter
    rcases hafter with hlt | ⟨heq, hle⟩
    · exact .inl hlt
    · exact .inr ⟨heq, lt_of_le_of_ne hle hne⟩

end

section
/-! PROOF. ACT_SUBMIT, and the commands on a slot: ACT_MODIFY, ACT_CANCEL and ACT_READ. -/
namespace Sys2Proof.Machine

/-! ### The enumerations of a request (R91, check 1) -/

theorem actionKindOf_some {b : Byte} {k : ActionKind} :
    actionKindOf b = some k ↔
      (b = 0#8 ∧ k = .set) ∨ (b = 1#8 ∧ k = .clear) ∨ (b = 2#8 ∧ k = .toggle) ∨ (b = 3#8 ∧ k = .pulse) ∨
        (b = 4#8 ∧ k = .gateOpen) ∨ (b = 5#8 ∧ k = .mark) := by
  cases k <;> simp only [reduceCtorEq, and_true, and_false, or_false, false_or] <;> revert b <;> decide

theorem referenceOf_some {b : Byte} {x : TimingReference} :
    referenceOf b = some x ↔ (b = 0#8 ∧ x = .absolute) ∨ (b = 1#8 ∧ x = .relative) ∨ (b = 2#8 ∧ x = .frame) := by
  cases x <;> simp only [reduceCtorEq, and_true, and_false, or_false, false_or] <;> revert b <;> decide

theorem notifyOf_some {b : Byte} {x : Notify} :
    notifyOf b = some x ↔ (b = 0#8 ∧ x = .never) ∨ (b = 1#8 ∧ x = .each) ∨ (b = 2#8 ∧ x = .last) := by
  cases x <;> simp only [reduceCtorEq, and_true, and_false, or_false, false_or] <;> revert b <;> decide

theorem targetOf_line {k : ActionKind} (hk : k = .set ∨ k = .clear ∨ k = .toggle ∨ k = .pulse) {b : Byte} {x : Target} :
    targetOf k b = some x ↔ ∃ l : OutLine, b.toNat = l.val ∧ x = .output l := by
  have hmap : targetOf k b = (indexOf 8 b).map .output := by rcases hk with rfl | rfl | rfl | rfl <;> rfl
  simp only [hmap, Option.map_eq_some_iff, indexOf_some, eq_comm (b := x)]

theorem targetOf_capture {b : Byte} {x : Target} :
    targetOf .gateOpen b = some x ↔ ∃ n : CapLine, b.toNat = n.val ∧ x = .capture n := by
  have hmap : targetOf .gateOpen b = (indexOf 16 b).map .capture := rfl
  simp only [hmap, Option.map_eq_some_iff, indexOf_some, eq_comm (b := x)]

theorem targetOf_mark {b : Byte} {x : Target} : targetOf .mark b = some x ↔ b = 0xFF#8 ∧ x = .absent := by
  unfold targetOf
  dsimp only
  split <;> simp_all [eq_comm]

theorem submitFormOf_some {f : SubmitFields} {x : SubmitForm} :
    submitFormOf f = some x ↔
      actionKindOf f.kind = some x.kind ∧ referenceOf f.reference = some x.reference ∧
        notifyOf f.notify = some x.notify ∧ targetOf x.kind f.target = some x.target := by
  obtain ⟨k, t, r, n⟩ := x
  unfold submitFormOf
  cases actionKindOf f.kind with
  | none => simp
  | some k' =>
    cases referenceOf f.reference with
    | none => simp
    | some r' =>
      cases notifyOf f.notify with
      | none => simp
      | some n' =>
        simp only [Option.map_eq_some_iff, SubmitForm.mk.injEq, Option.some.injEq]
        constructor
        · rintro ⟨t', ht, rfl, rfl, rfl, rfl⟩
          exact ⟨rfl, rfl, rfl, ht⟩
        · rintro ⟨rfl, rfl, rfl, ht⟩
          exact ⟨t, ht, rfl, rfl, rfl, rfl⟩

/-- R91: which targets suit a kind. -/
theorem targetOf_some {b c : Byte} {k : ActionKind} (hk : actionKindOf b = some k) {x : Target} :
    targetOf k c = some x ↔
      (b.toNat ≤ 3 ∧ ∃ l : OutLine, c.toNat = l.val ∧ x = .output l) ∨
        (b = 4#8 ∧ ∃ n : CapLine, c.toNat = n.val ∧ x = .capture n) ∨ (b = 5#8 ∧ c = 0xFF#8 ∧ x = .absent) := by
  rcases actionKindOf_some.mp hk with ⟨rfl, rfl⟩ | ⟨rfl, rfl⟩ | ⟨rfl, rfl⟩ | ⟨rfl, rfl⟩ | ⟨rfl, rfl⟩ | ⟨rfl, rfl⟩
  · simp [targetOf_line]
  · simp [targetOf_line]
  · simp [targetOf_line]
  · simp [targetOf_line]
  · simp [targetOf_capture]
  · simp [targetOf_mark]

/-! ### The checks of ACT_SUBMIT (R90 to R92) -/

theorem State.targetRefusal_output (s : State) (m : Master) (l : OutLine) :
    s.targetRefusal m (.output l) =
      if s.complementB l = true then some .badArg
      else if (s.line l).owner ≠ some m then some .notOwner
      else if (s.line l).drive = .cut then some .cut
      else if (s.line l).drive = .driven then none
      else some .badState := by
  unfold State.targetRefusal
  dsimp only
  cases (s.line l).drive <;> rfl

theorem State.targetRefusal_capture (s : State) (m : Master) (n : CapLine) :
    s.targetRefusal m (.capture n) =
      if (s.right m).entries.getLsbD n.val = false then some .denied
      else if (s.capture n).mode = .edge ∧ (s.capture n).gateEnable = true then none
      else some .badState := by
  have hprograms : s.programs m (capEntry n) = (s.right m).entries.getLsbD n.val := rfl
  unfold State.targetRefusal
  dsimp only
  rw [hprograms]
  cases (s.right m).entries.getLsbD n.val <;> cases (s.capture n).mode <;> cases (s.capture n).gateEnable <;> rfl

theorem Timebase.dueTime_absolute (t : Timebase) (v : Count) :
    t.dueTime .absolute v =
      if (v - t.count).toNat = 0 ∨ 2 ^ 31 ≤ (v - t.count).toNat then .inl .late else .inr v := by
  have hahead : ahead t.count v = true ↔ ¬((v - t.count).toNat = 0 ∨ 2 ^ 31 ≤ (v - t.count).toNat) := by
    unfold ahead distance Config.horizon
    rw [Bool.and_eq_true, decide_eq_true_iff, decide_eq_true_iff]
    omega
  unfold Timebase.dueTime
  dsimp only
  split
  · next h => rw [if_neg (hahead.mp h)]
  · next h => rw [if_pos (not_not.mp (mt hahead.mpr h))]

theorem Timebase.dueTime_relative (t : Timebase) (v : Count) :
    t.dueTime .relative v =
      if v.toNat = 0 then .inl .late else if 2 ^ 31 ≤ v.toNat then .inl .badArg else .inr (t.count + v) := by
  have hhorizon : Config.horizon < v.toNat ↔ 2 ^ 31 ≤ v.toNat := by
    unfold Config.horizon
    omega
  unfold Timebase.dueTime
  simp only [hhorizon]

theorem Timebase.dueTime_frame (t : Timebase) (v : Count) :
    t.dueTime .frame v =
      if t.framePeriod = 0 ∨ t.staged = some 0 then .inl .badState
      else if t.staged.getD t.framePeriod ≤ v.toNat then .inl .badArg
      else .inr (t.count + BitVec.ofNat 32 t.framePeriod - BitVec.ofNat 32 t.phase + v) := by
  have hoff : (!t.framing || t.nextPeriod == 0) = true ↔ t.framePeriod = 0 ∨ t.staged = some 0 := by
    unfold Timebase.framing Timebase.nextPeriod
    cases t.staged <;> simp
  unfold Timebase.dueTime
  simp only [hoff]
  rfl

theorem widthsFit_iff {k : ActionKind} {a b : Option Nat} {p c : Nat} :
    widthsFit k a b p c = true ↔
      p < 2 ^ 31 ∧ (p = 0 → c = 1) ∧ (k ≠ .pulse → a = none ∧ b = none) ∧
        (k = .pulse → ∃ x, a = some x ∧ (b = none → p = 0 ∨ x < p) ∧ ∀ y, b = some y → x < p ∧ y < p) := by
  have hcommon : (decide (p ≤ Config.horizon) && (p != 0 || c == 1)) = true ↔ p < 2 ^ 31 ∧ (p = 0 → c = 1) := by
    unfold Config.horizon
    simp only [Bool.and_eq_true, decide_eq_true_iff, Bool.or_eq_true, bne_iff_ne, beq_iff_eq]
    omega
  by_cases hk : k = .pulse
  · subst hk
    rcases a with _ | a
    · simp [widthsFit]
    · rcases b with _ | b
      · simp only [widthsFit, Bool.and_eq_true, hcommon, and_assoc]
        simp
      · simp only [widthsFit, Bool.and_eq_true, hcommon, and_assoc]
        simp
  · rcases a with _ | a <;> rcases b with _ | b <;> cases k <;> simp_all [widthsFit]

theorem submitted_eq (m : Master) (f : SubmitFields) (x : SubmitForm) (due : Count) :
    submitted m f x due =
      { owner := m
        kind := x.kind
        target := x.target
        due := due
        phase := .armed
        widthA := widthOf f.widthA
        widthB := widthOf f.widthB
        nextWidth := .a
        period := f.period.toNat
        repeatCount := f.repeatCount.toNat
        remaining := if f.repeatCount = 0#16 then none else some f.repeatCount.toNat
        firings := 0
        notify := x.notify
        tag := f.tag
        staged := none } := by
  have hzero : f.repeatCount.toNat = 0 ↔ f.repeatCount = 0#16 := BitVec.toNat_inj (y := 0#16)
  unfold submitted
  simp only [hzero]

theorem State.freeSlot_of {s : State} {n : Slot} (hn : s.action n = none) (hk : ∀ k, k < n → s.action k ≠ none) :
    s.freeSlot = some n :=
  find_slot_iff.mpr ⟨by rw [hn]; rfl, fun k hlt => by rw [Option.isNone_eq_false_iff, Option.isSome_iff_ne_none]; exact hk k hlt⟩

/-! ### The commands on a slot (R99, R101, R103) -/

theorem State.ownRecord_unknown {s : State} {m : Master} {slot : Byte} (h : 32 ≤ slot.toNat) :
    s.ownRecord m slot = .inl .badArg := by
  unfold State.ownRecord
  rw [indexOf_none.mpr h]

theorem State.ownRecord_empty {s : State} {m : Master} {slot : Byte} {n : Slot} (h : slot.toNat = n.val)
    (hn : s.action n = none) : s.ownRecord m slot = .inl .notFound := by
  unfold State.ownRecord
  simp only [indexOf_eq h, hn]

theorem State.ownRecord_present {s : State} {m : Master} {slot : Byte} {n : Slot} {r : ActionRecord}
    (h : slot.toNat = n.val) (hn : s.action n = some r) :
    s.ownRecord m slot = if r.owner = m then .inr (n, r) else .inl .notOwner := by
  unfold State.ownRecord
  simp only [indexOf_eq h, hn]

theorem ActionRecord.nextTime_eq (r : ActionRecord) :
    r.nextTime = match r.phase with | .armed => r.due | .active stop => stop := rfl

theorem ActionRecord.isActive_eq (r : ActionRecord) :
    r.isActive = match r.phase with | .armed => false | .active _ => true := rfl

theorem ActionRecord.updateFits_iff {r : ActionRecord} {u : StagedUpdate} :
    r.updateFits u = true ↔
      1 ≤ u.period ∧ u.period < 2 ^ 31 ∧
        (r.kind ≠ .pulse → u.widthA = none ∧ u.widthB = none) ∧
        (r.kind = .pulse →
          u.widthA ≠ none ∧
            ∀ w, u.widthA = some w ∨ u.widthB = some w ∨ r.widthA = some w ∨ r.widthB = some w → w < u.period) := by
  have hperiod : (decide (1 ≤ u.period) && decide (u.period ≤ Config.horizon)) = true ↔ 1 ≤ u.period ∧ u.period < 2 ^ 31 := by
    unfold Config.horizon
    rw [Bool.and_eq_true, decide_eq_true_iff, decide_eq_true_iff]
    omega
  have hwidth (x : Option Nat) (hp : 1 ≤ u.period) : x.getD 0 < u.period ↔ ∀ w, x = some w → w < u.period := by
    cases x with
    | none => simp only [Option.getD_none, reduceCtorEq, false_implies, implies_true, iff_true]; omega
    | some w => simp
  by_cases hk : r.kind = .pulse
  · unfold ActionRecord.updateFits
    rw [hk]
    cases ha : u.widthA with
    | none => simp
    | some a =>
      simp only [Bool.and_eq_true, decide_eq_true_iff, hperiod]
      constructor
      · rintro ⟨⟨⟨⟨⟨hp, hp'⟩, h1⟩, h2⟩, h3⟩, h4⟩
        refine ⟨hp, hp', fun hne => absurd rfl hne, fun _ => ⟨by simp, ?_⟩⟩
        rintro w (hw | hw | hw | hw)
        · exact Option.some.inj hw ▸ h1
        · exact (hwidth _ hp).mp h2 w hw
        · exact (hwidth _ hp).mp h3 w hw
        · exact (hwidth _ hp).mp h4 w hw
      · rintro ⟨hp, hp', -, hwidths⟩
        obtain ⟨-, hw⟩ := hwidths trivial
        exact ⟨⟨⟨⟨⟨hp, hp'⟩, hw a (.inl rfl)⟩, (hwidth _ hp).mpr fun w h => hw w (.inr (.inl h))⟩,
          (hwidth _ hp).mpr fun w h => hw w (.inr (.inr (.inl h)))⟩,
          (hwidth _ hp).mpr fun w h => hw w (.inr (.inr (.inr h)))⟩
  · have hother : r.updateFits u =
        (decide (1 ≤ u.period) && decide (u.period ≤ Config.horizon) && (u.widthA.isNone && u.widthB.isNone)) := by
      unfold ActionRecord.updateFits
      cases hkind : r.kind <;> cases u.widthA <;> simp_all
    refine (Bool.eq_iff_iff.mp hother).trans ?_
    rw [Bool.and_eq_true, hperiod, Bool.and_eq_true, Option.isNone_iff_eq_none, Option.isNone_iff_eq_none, and_assoc]
    exact ⟨fun ⟨h1, h2, h3⟩ => ⟨h1, h2, fun _ => h3, fun h => absurd h hk⟩, fun ⟨h1, h2, h3, _⟩ => ⟨h1, h2, h3 hk⟩⟩

/-- The record of ACT_READ, byte by byte (R178). -/
theorem State.recordBytes_eq (s : State) (n : Slot) (r : ActionRecord) :
    s.recordBytes n r =
      [nat8 n.val, nat8 r.owner.val,
        (match r.kind with
        | .set => 0#8
        | .clear => 1#8
        | .toggle => 2#8
        | .pulse => 3#8
        | .gateOpen => 4#8
        | .mark => 5#8),
        (match r.target with | .output l => nat8 l.val | .capture k => nat8 k.val | .absent => 0xFF#8),
        (if r.isActive then 0x05#8 else 0#8) ||| (if r.nextWidth = .b then 0x02#8 else 0#8) |||
          (if r.staged = none then 0#8 else 0x08#8) |||
          (match r.notify with | .never => 0#8 | .each => 0x10#8 | .last => 0x20#8)] ++
        bytes32 r.due ++ bytes32 (match r.phase with | .armed => 0#32 | .active stop => stop) ++
        nat24 (r.widthA.getD 0) ++ nat24 (r.widthB.getD 0) ++ nat32 r.period ++ nat16 r.repeatCount ++
        nat16 (r.remaining.getD 0) ++ bytes16 r.firings ++ [r.tag] ++
        (match r.staged with
        | none => List.replicate 10 0#8
        | some x => nat24 (x.widthA.getD 0) ++ nat24 (x.widthB.getD 0) ++ nat32 x.period) ++
        bytes32 (r.nextTime - s.timebase.count) ++ timestampBytes s.now := by
  have hcontrol : r.controlByte =
      (if r.isActive then 0x05#8 else 0#8) ||| (if r.nextWidth = .b then 0x02#8 else 0#8) |||
        (if r.staged = none then 0#8 else 0x08#8) |||
        (match r.notify with | .never => 0#8 | .each => 0x10#8 | .last => 0x20#8) := by
    have hpresent : (if r.staged = none then 0#8 else 0x08#8) = if r.staged.isSome then 0x08#8 else 0#8 := by
      cases r.staged <;> simp
    rw [hpresent]
    unfold ActionRecord.controlByte
    cases r.isActive <;> cases r.nextWidth <;> cases r.staged.isSome <;> cases r.notify <;> rfl
  have hstop : r.stopBytes = bytes32 (match r.phase with | .armed => 0#32 | .active stop => stop) := by
    unfold ActionRecord.stopBytes
    cases r.phase <;> rfl
  have hstaged : stagedBytes r.staged = match r.staged with
      | none => List.replicate 10 0#8
      | some x => nat24 (x.widthA.getD 0) ++ nat24 (x.widthB.getD 0) ++ nat32 x.period := by
    cases r.staged <;> rfl
  rw [State.recordBytes, hcontrol, hstop, hstaged, remainingBytes]
  cases r.kind <;> cases r.target <;> rfl

theorem nat24_widthOf (w : BitVec 24) : nat24 ((widthOf w).getD 0) = bytes24 w := by
  have hvalue : (widthOf w).getD 0 = w.toNat := by
    unfold widthOf
    split
    · next h => exact h.symm
    · rfl
  rw [hvalue, nat24, BitVec.ofNat_toNat, BitVec.setWidth_eq]

theorem nat32_toNat (w : BitVec 32) : nat32 w.toNat = bytes32 w := by
  rw [nat32, BitVec.ofNat_toNat, BitVec.setWidth_eq]

end Sys2Proof.Machine

open Sys2Proof Sys2Proof.Machine

/-- Settles O35: the checks of a submission in their order, and the record that it places. -/
theorem actSubmitChecksAndPlacesARecord : Obligations.ActSubmitChecksAndPlacesARecord := by
  unfold Obligations.ActSubmitChecksAndPlacesARecord
  refine ⟨fun m f s h => ⟨fun hnone => ?_, fun x hx => ⟨fun st hst => ?_, fun htarget => ⟨fun st hst => ?_, fun due hdue =>
    ⟨fun hwidths => ?_, fun hwidths => ⟨fun hfull => ?_, fun hroom n hn hk => ?_⟩⟩⟩⟩⟩, fun f x => ?_,
    fun s m l => s.targetRefusal_output m l, fun s m n => s.targetRefusal_capture m n, fun _ _ => rfl,
    fun t v => ⟨t.dueTime_absolute v, t.dueTime_relative v, t.dueTime_frame v⟩, fun _ _ _ _ _ => widthsFit_iff⟩
  · exact exec_refuses rfl h (by simp [blockOf, takeActSubmit, hnone])
  · exact exec_refuses rfl h (by simp [blockOf, takeActSubmit, hx, hst])
  · exact exec_refuses rfl h (by simp [blockOf, takeActSubmit, hx, htarget, hst])
  · exact exec_refuses rfl h (by simp [blockOf, takeActSubmit, hx, htarget, hdue, hwidths])
  · have howner : (submitted m f x due).owner = m := rfl
    exact exec_refuses rfl h (by
      simp [blockOf, takeActSubmit, hx, htarget, hdue, hwidths, State.placeRecord, howner, hfull])
  · have howner : (submitted m f x due).owner = m := rfl
    have hplaced : (submitted m f x due).due = due := rfl
    refine exec_answers rfl h ?_
    simp only [blockOf, takeActSubmit, hx, State.front_targetRefusal, htarget, State.front_timebase, hdue, hwidths, if_true,
      State.placeRecord, howner, hplaced, State.front_right, State.front_held, Nat.not_le.mpr hroom, if_false,
      State.front_freeSlot, State.freeSlot_of hn hk, State.front_now]
    rw [submitted_eq]
  · rw [submitFormOf_some, ← actionKindOf_some, ← referenceOf_some, ← notifyOf_some]
    constructor
    · rintro ⟨hk, hr, hn, ht⟩
      exact ⟨hk, hr, hn, (targetOf_some hk).mp ht⟩
    · rintro ⟨hk, hr, hn, ht⟩
      exact ⟨hk, hr, hn, (targetOf_some hk).mpr ht⟩

/-- Settles O36: the slot, its record and its owner are checked first; then each command acts on the caller's own record. -/
theorem recordCommandsActOnOnesOwn : Obligations.RecordCommandsActOnOnesOwn := by
  unfold Obligations.RecordCommandsActOnOnesOwn
  refine ⟨fun m s i slot f h hi => ?_, fun r u => ActionRecord.updateFits_iff⟩
  rcases hi with ⟨rfl, rfl⟩ | rfl | rfl
  · simp only [reduceCtorEq, if_false, State.front_action]
    refine ⟨fun hx => exec_refuses rfl h (by simp [blockOf, takeActModify, State.ownRecord_unknown hx]), fun n hx =>
      ⟨fun hn => exec_refuses rfl h (by simp [blockOf, takeActModify, State.ownRecord_empty hx hn]), fun r hr =>
      ⟨fun ho => exec_refuses rfl h (by simp [blockOf, takeActModify, State.ownRecord_present hx hr, ho]), fun ho =>
      ⟨fun _ => ?_, fun hc => hc.elim, fun hc => hc.elim⟩⟩⟩⟩
    split
    · next hbad =>
      refine exec_refuses rfl h ?_
      simp only [blockOf, takeActModify, State.front_ownRecord, State.ownRecord_present hx hr, ho, if_true]
      split
      · rfl
      · next hp => rw [if_pos (by rw [hbad.resolve_left hp]; rfl)]
    · next hgood =>
      rw [not_or, Bool.not_eq_false] at hgood
      obtain ⟨hp, hfits⟩ := hgood
      refine exec_answers rfl h ?_
      simp only [blockOf, takeActModify, State.front_ownRecord, State.ownRecord_present hx hr, ho, if_true, hp, if_false,
        hfits, Bool.not_true, Bool.false_eq_true, stagedBytes, nat24_widthOf, nat32_toNat, remainingBytes]
      rfl
  · simp only [reduceCtorEq, if_false, State.front_action]
    refine ⟨fun hx => exec_refuses rfl h (by simp [blockOf, takeActCancel, State.ownRecord_unknown hx]), fun n hx =>
      ⟨fun hn => exec_refuses rfl h (by simp [blockOf, takeActCancel, State.ownRecord_empty hx hn]), fun r hr =>
      ⟨fun ho => exec_refuses rfl h (by simp [blockOf, takeActCancel, State.ownRecord_present hx hr, ho]), fun ho =>
      ⟨fun hc => hc.elim, fun _ => exec_answers rfl h ?_, fun hc => hc.elim⟩⟩⟩⟩
    simp only [blockOf, takeActCancel, State.front_ownRecord, State.ownRecord_present hx hr, ho, if_true, State.cancelAction,
      State.front_now, remainingBytes]
    rfl
  · simp only [reduceCtorEq, if_true]
    have hread {t : State} {a : Answer} (hb : takeActRead m slot (s.front m) = (t, a)) :
        exec (.actRead m slot) s = .next (t.answer m 0x33#8 a) := exec_answers rfl h hb
    refine ⟨fun hx => hread ?_, fun n hx => ⟨fun hn => hread ?_, fun r hr => ⟨fun ho => hread ?_, fun ho =>
      ⟨fun hc => hc.elim, fun hc => hc.elim, fun _ => hread ?_⟩⟩⟩⟩
    · simp only [takeActRead, State.ownRecord_unknown hx]
      rfl
    · simp only [takeActRead, State.ownRecord_empty hx hn]
      rfl
    · simp only [takeActRead, State.ownRecord_present hx hr, ho, if_false]
      rfl
    · simp only [takeActRead, State.ownRecord_present hx hr, ho, if_true, State.recordBytes_eq, State.settle_timebase,
        State.settle_now, State.front_timebase, State.front_now, nat8_index hx]
      rfl

end

section
/-! PROOF. A command's request frame decodes to the command. -/
namespace Sys2Proof.Machine

/-! ### Little-endian fields (R171) -/

theorem append_bytes16 (v : BitVec 16) : (v.extractLsb' 8 8 ++ v.extractLsb' 0 8 : BitVec 16) = v :=
  (BitVec.extractLsb'_append_extractLsb'_eq_extractLsb' rfl).trans BitVec.extractLsb'_eq_self

theorem append_bytes24 (v : BitVec 24) :
    (v.extractLsb' 16 8 ++ (v.extractLsb' 8 8 ++ v.extractLsb' 0 8 : BitVec 16) : BitVec 24) = v := by
  have hlow : (v.extractLsb' 8 8 ++ v.extractLsb' 0 8 : BitVec 16) = v.extractLsb' 0 16 :=
    BitVec.extractLsb'_append_extractLsb'_eq_extractLsb' rfl
  rw [hlow]
  exact (BitVec.extractLsb'_append_extractLsb'_eq_extractLsb' rfl).trans BitVec.extractLsb'_eq_self

theorem append_bytes32 (v : BitVec 32) :
    (v.extractLsb' 24 8 ++ (v.extractLsb' 16 8 ++ (v.extractLsb' 8 8 ++ v.extractLsb' 0 8 : BitVec 16) : BitVec 24) :
      BitVec 32) = v := by
  have hlow : (v.extractLsb' 8 8 ++ v.extractLsb' 0 8 : BitVec 16) = v.extractLsb' 0 16 :=
    BitVec.extractLsb'_append_extractLsb'_eq_extractLsb' rfl
  have hmiddle : (v.extractLsb' 16 8 ++ v.extractLsb' 0 16 : BitVec 24) = v.extractLsb' 0 24 :=
    BitVec.extractLsb'_append_extractLsb'_eq_extractLsb' rfl
  rw [hlow, hmiddle]
  exact (BitVec.extractLsb'_append_extractLsb'_eq_extractLsb' rfl).trans BitVec.extractLsb'_eq_self

theorem ofFn_byteAt {n : Nat} (v : Vector Byte n) : (Vector.ofFn fun i : Fin n => byteAt v.toList i.val) = v := by
  refine Vector.ext fun i hi => ?_
  have hlen : i < v.toList.length := by rw [Vector.length_toList]; exact hi
  rw [Vector.getElem_ofFn, byteAt, List.getD_eq_getElem _ _ hlen, Vector.getElem_toList]

/-! ### Decoding an encoded command (R173, R177 to R179) -/

theorem commandOf_encode {i : Instr} {m : Master} {code : Byte} {payload : List Byte}
    (h : encodeRequest i = some (m, code, payload)) :
    commandOf m code payload = some i ∧ commandLength code = some payload.length := by
  cases i with
  | labelWrite k label =>
    cases h
    exact ⟨congrArg (fun l => some (Instr.labelWrite m l)) (ofFn_byteAt label), congrArg some Vector.length_toList.symm⟩
  | rightsWrite k f =>
    cases h
    exact ⟨congrArg (fun x => some (Instr.rightsWrite m { f with entries := x })) (append_bytes24 f.entries), rfl⟩
  | tbConfig k f =>
    cases h
    have hfields : commandOf m 0x10#8
        ([f.select] ++ bytes16 f.prescale ++ bytes24 f.framePeriod ++ [f.syncMode] ++ bytes32 f.resyncValue) =
        some (.tbConfig m ⟨f.select, f.prescale.extractLsb' 8 8 ++ f.prescale.extractLsb' 0 8,
          f.framePeriod.extractLsb' 16 8 ++ (f.framePeriod.extractLsb' 8 8 ++ f.framePeriod.extractLsb' 0 8 : BitVec 16),
          f.syncMode, f.resyncValue.extractLsb' 24 8 ++ (f.resyncValue.extractLsb' 16 8 ++
            (f.resyncValue.extractLsb' 8 8 ++ f.resyncValue.extractLsb' 0 8 : BitVec 16) : BitVec 24)⟩) := rfl
    rw [hfields, append_bytes16, append_bytes24, append_bytes32]
    exact ⟨rfl, rfl⟩
  | capConfig k f =>
    cases h
    have hfields : commandOf m 0x18#8
        ([f.line, f.mode, f.edgeSelect, f.activeLevel, f.filterLength] ++ bytes16 f.interval ++ bytes16 f.prescale ++
          [f.gateEnable]) =
        some (.capConfig m ⟨f.line, f.mode, f.edgeSelect, f.activeLevel, f.filterLength,
          f.interval.extractLsb' 8 8 ++ f.interval.extractLsb' 0 8,
          f.prescale.extractLsb' 8 8 ++ f.prescale.extractLsb' 0 8, f.gateEnable⟩) := rfl
    rw [hfields, append_bytes16, append_bytes16]
    exact ⟨rfl, rfl⟩
  | groupConfig k g mask =>
    cases h
    exact ⟨congrArg (fun x => some (Instr.groupConfig m g x)) (append_bytes16 mask), rfl⟩
  | entryWrite k f =>
    cases h
    exact ⟨congrArg (fun x => some (Instr.entryWrite m { f with deadline := x })) (append_bytes16 f.deadline), rfl⟩
  | actSubmit k f =>
    cases h
    have hfields : commandOf m 0x30#8
        ([f.kind, f.target, f.reference, f.notify, f.tag] ++ bytes32 f.time ++ bytes24 f.widthA ++ bytes24 f.widthB ++
          bytes32 f.period ++ bytes16 f.repeatCount) =
        some (.actSubmit m ⟨f.kind, f.target, f.reference, f.notify, f.tag,
          f.time.extractLsb' 24 8 ++ (f.time.extractLsb' 16 8 ++
            (f.time.extractLsb' 8 8 ++ f.time.extractLsb' 0 8 : BitVec 16) : BitVec 24),
          f.widthA.extractLsb' 16 8 ++ (f.widthA.extractLsb' 8 8 ++ f.widthA.extractLsb' 0 8 : BitVec 16),
          f.widthB.extractLsb' 16 8 ++ (f.widthB.extractLsb' 8 8 ++ f.widthB.extractLsb' 0 8 : BitVec 16),
          f.period.extractLsb' 24 8 ++ (f.period.extractLsb' 16 8 ++
            (f.period.extractLsb' 8 8 ++ f.period.extractLsb' 0 8 : BitVec 16) : BitVec 24),
          f.repeatCount.extractLsb' 8 8 ++ f.repeatCount.extractLsb' 0 8⟩) := rfl
    rw [hfields, append_bytes16, append_bytes24, append_bytes24, append_bytes32, append_bytes32]
    exact ⟨rfl, rfl⟩
  | actModify k f =>
    cases h
    have hfields : commandOf m 0x31#8 ([f.slot] ++ bytes24 f.widthA ++ bytes24 f.widthB ++ bytes32 f.period) =
        some (.actModify m ⟨f.slot,
          f.widthA.extractLsb' 16 8 ++ (f.widthA.extractLsb' 8 8 ++ f.widthA.extractLsb' 0 8 : BitVec 16),
          f.widthB.extractLsb' 16 8 ++ (f.widthB.extractLsb' 8 8 ++ f.widthB.extractLsb' 0 8 : BitVec 16),
          f.period.extractLsb' 24 8 ++ (f.period.extractLsb' 16 8 ++
            (f.period.extractLsb' 8 8 ++ f.period.extractLsb' 0 8 : BitVec 16) : BitVec 24)⟩) := rfl
    rw [hfields, append_bytes24, append_bytes24, append_bytes32]
    exact ⟨rfl, rfl⟩
  | pairConfig k f =>
    cases h
    exact ⟨congrArg (fun x => some (Instr.pairConfig m { f with deadTime := x })) (append_bytes16 f.deadTime), rfl⟩
  | cutConfig k f =>
    cases h
    exact ⟨congrArg (fun x => some (Instr.cutConfig m { f with interval := x })) (append_bytes16 f.interval), rfl⟩
  | _ => cases h <;> exact ⟨rfl, rfl⟩

theorem decodeRequest_encode {i : Instr} {m : Master} {code : Byte} {payload : List Byte}
    (h : encodeRequest i = some (m, code, payload)) : decodeRequest m code payload = some i := by
  obtain ⟨hcommand, hlength⟩ := commandOf_encode h
  rw [decodeRequest, if_pos hlength, hcommand]

/-- R173: no command's payload is longer than the longest a frame holds, and 0x80 is no command's code. -/
theorem commandLength_bounds {code : Byte} {n : Nat} (h : commandLength code = some n) : n ≤ 48 ∧ code ≠ 0x80#8 := by
  refine ⟨?_, fun e => ?_⟩
  · unfold commandLength at h
    split at h <;> cases h <;> decide
  · rw [e] at h
    cases h

end Sys2Proof.Machine

open Sys2Proof Sys2Proof.Machine

/-- Settles O59: the layout of a request is read back field by field, in a frame that passes the frame check. -/
theorem requestsDecodeToTheirCommands : Obligations.RequestsDecodeToTheirCommands := by
  unfold Obligations.RequestsDecodeToTheirCommands
  intro i m code payload h
  obtain ⟨-, hlength⟩ := commandOf_encode h
  obtain ⟨hmax, hcode⟩ := commandLength_bounds hlength
  exact ⟨decodeRequest_encode h, hlength, hcode, (frameProblem_none_iff_laidOut _).mpr ⟨code, payload, hmax, rfl⟩,
    framePayload_requestFrameBytes code hmax⟩

end

section
/-! PROOF. A frame and its execution do what the command does: no block's work depends on what a port is executing. -/
namespace Sys2Proof.Machine

/-! ### A port's execution, replaced -/

/-- The state with another execution at a port, and nothing else changed. -/
def State.withExecution (s : State) (m : Master) (x : Option Execution) : State := s.setPort m { s.port m with execution := x }

namespace State

section

variable (s : State) (m : Master) (x : Option Execution)

/-! #### What is read of the state -/

@[simp] theorem withExecution_timebase : (s.withExecution m x).timebase = s.timebase := rfl
@[simp] theorem withExecution_cutoff : (s.withExecution m x).cutoff = s.cutoff := rfl
@[simp] theorem withExecution_supervisor : (s.withExecution m x).supervisor = s.supervisor := rfl
@[simp] theorem withExecution_label : (s.withExecution m x).label = s.label := rfl
@[simp] theorem withExecution_now : (s.withExecution m x).now = s.now := rfl
@[simp] theorem withExecution_capture (n : CapLine) : (s.withExecution m x).capture n = s.capture n := rfl
@[simp] theorem withExecution_entry (e : EntryIx) : (s.withExecution m x).entry e = s.entry e := rfl
@[simp] theorem withExecution_queue (k : Master) : (s.withExecution m x).queue k = s.queue k := rfl
@[simp] theorem withExecution_action (n : Slot) : (s.withExecution m x).action n = s.action n := rfl
@[simp] theorem withExecution_line (l : OutLine) : (s.withExecution m x).line l = s.line l := rfl
@[simp] theorem withExecution_pair (p : PairIx) : (s.withExecution m x).pair p = s.pair p := rfl
@[simp] theorem withExecution_right (k : Master) : (s.withExecution m x).right k = s.right k := rfl
@[simp] theorem withExecution_programs (k : Master) (e : EntryIx) :
    (s.withExecution m x).programs k e = s.programs k e := rfl
@[simp] theorem withExecution_depth (k : Master) : (s.withExecution m x).depth k = s.depth k := rfl
@[simp] theorem withExecution_complement (p : PairIx) : (s.withExecution m x).complement p = s.complement p := rfl
@[simp] theorem withExecution_complementB (l : OutLine) : (s.withExecution m x).complementB l = s.complementB l := rfl
@[simp] theorem withExecution_together (l : OutLine) : (s.withExecution m x).together l = s.together l := rfl
@[simp] theorem withExecution_addressedLine (b : Byte) : (s.withExecution m x).addressedLine b = s.addressedLine b := rfl
@[simp] theorem withExecution_mayClaim (k : Master) (l : OutLine) :
    (s.withExecution m x).mayClaim k l = s.mayClaim k l := rfl
@[simp] theorem withExecution_lineInUse (l : OutLine) : (s.withExecution m x).lineInUse l = s.lineInUse l := rfl
@[simp] theorem withExecution_pairRefusal (k : Master) (p : PairIx) (mode : PairMode) :
    (s.withExecution m x).pairRefusal k p mode = s.pairRefusal k p mode := rfl
@[simp] theorem withExecution_pairCutEnable (l : OutLine) : (s.withExecution m x).pairCutEnable l = s.pairCutEnable l := rfl
@[simp] theorem withExecution_wholePairs (lines : LineSet) :
    (s.withExecution m x).wholePairs lines = s.wholePairs lines := rfl
@[simp] theorem withExecution_ownedLines (k : Master) : (s.withExecution m x).ownedLines k = s.ownedLines k := rfl
@[simp] theorem withExecution_anyCut (lines : LineSet) : (s.withExecution m x).anyCut lines = s.anyCut lines := rfl
@[simp] theorem withExecution_cuts : (s.withExecution m x).cuts = s.cuts := rfl
@[simp] theorem withExecution_onCutLine : (s.withExecution m x).onCutLine = s.onCutLine := rfl
@[simp] theorem withExecution_selects (p : ActionRecord → Bool) : (s.withExecution m x).selects p = s.selects p := rfl
@[simp] theorem withExecution_countRecords (p : ActionRecord → Bool) :
    (s.withExecution m x).countRecords p = s.countRecords p := rfl
@[simp] theorem withExecution_held (k : Master) : (s.withExecution m x).held k = s.held k := rfl
@[simp] theorem withExecution_freeSlot : (s.withExecution m x).freeSlot = s.freeSlot := rfl
@[simp] theorem withExecution_ownRecord (k : Master) (b : Byte) :
    (s.withExecution m x).ownRecord k b = s.ownRecord k b := rfl
@[simp] theorem withExecution_targetRefusal (k : Master) (t : Target) :
    (s.withExecution m x).targetRefusal k t = s.targetRefusal k t := rfl
@[simp] theorem withExecution_mayRearm : (s.withExecution m x).mayRearm = s.mayRearm := rfl
@[simp] theorem withExecution_restoreRefusal (k : Master) (lines : LineSet) :
    (s.withExecution m x).restoreRefusal k lines = s.restoreRefusal k lines := rfl
@[simp] theorem withExecution_mayConfigurePin (k : Master) :
    (s.withExecution m x).mayConfigurePin k = s.mayConfigurePin k := rfl
@[simp] theorem withExecution_rightsRefusal (c : RightsSettings) :
    (s.withExecution m x).rightsRefusal c = s.rightsRefusal c := rfl
@[simp] theorem withExecution_withdrawnLines (c : RightsSettings) :
    (s.withExecution m x).withdrawnLines c = s.withdrawnLines c := rfl
@[simp] theorem withExecution_withdrawnEntries (c : RightsSettings) :
    (s.withExecution m x).withdrawnEntries c = s.withdrawnEntries c := rfl
@[simp] theorem withExecution_affected (k : Master) (tag : Byte) :
    (s.withExecution m x).affected k tag = s.affected k tag := rfl
@[simp] theorem withExecution_affectedSet (k : Master) (tag : Byte) :
    (s.withExecution m x).affectedSet k tag = s.affectedSet k tag := rfl
@[simp] theorem withExecution_heldFor (k : Master) : (s.withExecution m x).heldFor k = s.heldFor k := rfl
@[simp] theorem withExecution_entryAsserted (e : EntryIx) : (s.withExecution m x).entryAsserted e = s.entryAsserted e := rfl
@[simp] theorem withExecution_entryNotice (e : EntryIx) (t : Timestamp) (body : NoticeBody) :
    (s.withExecution m x).entryNotice e t body = s.entryNotice e t body := rfl
@[simp] theorem withExecution_expiryDue (p : PairIx) : (s.withExecution m x).expiryDue p = s.expiryDue p := rfl
@[simp] theorem withExecution_nextEnd : (s.withExecution m x).nextEnd = s.nextEnd := rfl
@[simp] theorem withExecution_nextFire : (s.withExecution m x).nextFire = s.nextFire := rfl
@[simp] theorem withExecution_settled : (s.withExecution m x).settled = s.settled := rfl
@[simp] theorem withExecution_gateHandOff (n : CapLine) (c : CaptureSettings) :
    (s.withExecution m x).gateHandOff n c = s.gateHandOff n c := rfl
@[simp] theorem withExecution_eventHandOffs (n : CapLine) (t : Timestamp) (ev : CaptureEvent) :
    (s.withExecution m x).eventHandOffs n t ev = s.eventHandOffs n t ev := rfl
@[simp] theorem withExecution_detachHandOffs (k : Master) :
    (s.withExecution m x).detachHandOffs k = s.detachHandOffs k := rfl
@[simp] theorem withExecution_writeAttempt (e : EntryIx) (b : Bool) :
    (s.withExecution m x).writeAttempt e b = s.writeAttempt e b := rfl
@[simp] theorem withExecution_flagHandOff (e : EntryIx) (c : EntrySettings) :
    (s.withExecution m x).flagHandOff e c = s.flagHandOff e c := rfl
@[simp] theorem withExecution_entryBytes (e : EntryIx) : (s.withExecution m x).entryBytes e = s.entryBytes e := rfl
@[simp] theorem withExecution_cutoffBytes : (s.withExecution m x).cutoffBytes = s.cutoffBytes := rfl
@[simp] theorem withExecution_labelBytes : (s.withExecution m x).labelBytes = s.labelBytes := rfl
@[simp] theorem withExecution_standing (k : Master) (a : Attachment) :
    (s.withExecution m x).standing k a = s.standing k a := rfl

/-! #### The named updates -/

@[simp] theorem setTimebase_withExecution (t : Timebase) :
    (s.withExecution m x).setTimebase t = (s.setTimebase t).withExecution m x := rfl
@[simp] theorem setCapture_withExecution (n : CapLine) (c : CaptureLine) :
    (s.withExecution m x).setCapture n c = (s.setCapture n c).withExecution m x := rfl
@[simp] theorem setEntry_withExecution (e : EntryIx) (y : Entry) :
    (s.withExecution m x).setEntry e y = (s.setEntry e y).withExecution m x := rfl
@[simp] theorem setQueue_withExecution (k : Master) (q : NoticeQueue) :
    (s.withExecution m x).setQueue k q = (s.setQueue k q).withExecution m x := rfl
@[simp] theorem setAction_withExecution (n : Slot) (r : Option ActionRecord) :
    (s.withExecution m x).setAction n r = (s.setAction n r).withExecution m x := rfl
@[simp] theorem setLine_withExecution (l : OutLine) (y : OutputLine) :
    (s.withExecution m x).setLine l y = (s.setLine l y).withExecution m x := rfl
@[simp] theorem setPair_withExecution (p : PairIx) (y : Pair) :
    (s.withExecution m x).setPair p y = (s.setPair p y).withExecution m x := rfl
@[simp] theorem setCutoff_withExecution (c : Cutoff) :
    (s.withExecution m x).setCutoff c = (s.setCutoff c).withExecution m x := rfl
@[simp] theorem setRight_withExecution (k : Master) (r : Rights) :
    (s.withExecution m x).setRight k r = (s.setRight k r).withExecution m x := rfl
@[simp] theorem changeLines_withExecution (on : OutLine → Bool) (f : OutputLine → OutputLine) :
    (s.withExecution m x).changeLines on f = (s.changeLines on f).withExecution m x := rfl
@[simp] theorem clearPairs_withExecution (on : OutLine → Bool) :
    (s.withExecution m x).clearPairs on = (s.clearPairs on).withExecution m x := rfl
@[simp] theorem configureLine_withExecution (l : OutLine) (c : LineSettings) :
    (s.withExecution m x).configureLine l c = (s.configureLine l c).withExecution m x := rfl

@[simp] theorem withExecution_attachment (k : Master) : (s.withExecution m x).attachment k = s.attachment k := by
  unfold withExecution
  rw [State.setPort_attachment]
  split
  · next h => rw [h]; rfl
  · rfl

theorem refuse_withExecution (st : Status) :
    (s.withExecution m x).refuse st = ((s.refuse st).1.withExecution m x, (s.refuse st).2) := rfl

@[simp] theorem setAttachment_withExecution (a : Attachment) :
    (s.withExecution m x).setAttachment m a = (s.setAttachment m a).withExecution m x := by
  simp [withExecution, setAttachment]

@[simp] theorem withExecution_choose (e : EntryIx) : (s.withExecution m x).choose e = s.choose e := by
  simp only [choose, chooseAll, chooseOne, deliverable, withExecution_entry, withExecution_attachment]

/-! ### What a step is made of leaves it alone -/

/-- What commutes with another execution at a port, step by step of a list. -/
theorem foldl_withExecution {β : Type} {f : State → β → State} (l : List β)
    (h : ∀ u b, f (u.withExecution m x) b = (f u b).withExecution m x) :
    l.foldl f (s.withExecution m x) = (l.foldl f s).withExecution m x := by
  induction l generalizing s with
  | nil => rfl
  | cons b l ih => rw [List.foldl_cons, List.foldl_cons, h, ih]

theorem inAnyOrder_withExecution {handOffs : List (State → State)}
    (h : ∀ f ∈ handOffs, ∀ u : State, f (u.withExecution m x) = (f u).withExecution m x) :
    (s.withExecution m x).inAnyOrder handOffs = (s.inAnyOrder handOffs).withExecution m x := by
  have hfold (l : List (State → State)) (hl : ∀ f ∈ l, f ∈ handOffs) (u : State) :
      l.foldl (fun t f => f t) (u.withExecution m x) = (l.foldl (fun t f => f t) u).withExecution m x := by
    induction l generalizing u with
    | nil => rfl
    | cons f l ih =>
      rw [List.foldl_cons, List.foldl_cons, h f (hl f List.mem_cons_self), ih fun g hg => hl g (List.mem_cons_of_mem f hg)]
  match handOffs, h, hfold with
  | [], _, _ => rfl
  | [f], h, _ => exact h f (List.mem_singleton_self f) s
  | f :: g :: rest, _, hfold =>
    exact hfold (arrange s.choice (f :: g :: rest)) (fun k hk => (arrange_perm _ _).mem_iff.mp hk) s.spendChoice

@[simp] theorem hand_withExecution (k : Master) (n : Notice) :
    (s.withExecution m x).hand k n = (s.hand k n).withExecution m x := by
  simp only [hand, withExecution_attachment, withExecution_queue, setQueue_withExecution]
  split <;> rfl

@[simp] theorem handEach_withExecution (masters : MasterSet) (n : Notice) :
    (s.withExecution m x).handEach masters n = (s.handEach masters n).withExecution m x := by
  unfold handEach
  refine s.foldl_withExecution m x _ fun u k => ?_
  rw [hand_withExecution]
  split <;> rfl

@[simp] theorem edgeEvent_withExecution (e : EntryIx) (t : Timestamp) (body : NoticeBody) :
    (s.withExecution m x).edgeEvent e t body = (s.edgeEvent e t body).withExecution m x := by
  simp only [edgeEvent, withExecution_entry, withExecution_choose, withExecution_entryNotice, setEntry_withExecution,
    handEach_withExecution]
  split
  · rfl
  · split <;> rfl

@[simp] theorem attempt_withExecution (e : EntryIx) (t : Timestamp) :
    (s.withExecution m x).attempt e t = (s.attempt e t).withExecution m x := by
  simp only [attempt, withExecution_entry, withExecution_choose, withExecution_entryNotice, setEntry_withExecution,
    handEach_withExecution]
  split <;> rfl

@[simp] theorem assertion_withExecution (e : EntryIx) (t : Timestamp) :
    (s.withExecution m x).assertion e t = (s.assertion e t).withExecution m x := by
  simp only [assertion, withExecution_entry, attempt_withExecution]
  split <;> rfl

@[simp] theorem deassertion_withExecution (e : EntryIx) :
    (s.withExecution m x).deassertion e = (s.deassertion e).withExecution m x := by
  unfold deassertion
  rw [withExecution_entry, setEntry_withExecution]
  split <;> rfl

@[simp] theorem leaveAwaiting_withExecution (k : Master) (t : Timestamp) (e : EntryIx) :
    (s.withExecution m x).leaveAwaiting k t e = (s.leaveAwaiting k t e).withExecution m x := by
  simp only [leaveAwaiting, resample, withExecution_entry, withExecution_entryAsserted, setEntry_withExecution,
    attempt_withExecution]
  split
  · split <;> rfl
  · rfl

@[simp] theorem releaseLines_withExecution (lines : LineSet) :
    (s.withExecution m x).releaseLines lines = (s.releaseLines lines).withExecution m x := by
  simp only [releaseLines, clearPairs_withExecution, changeLines_withExecution]

@[simp] theorem cutLines_withExecution : (s.withExecution m x).cutLines = s.cutLines.withExecution m x := by
  simp only [cutLines, withExecution_cuts, clearPairs_withExecution, changeLines_withExecution]

@[simp] theorem disableLine_withExecution (l : OutLine) :
    (s.withExecution m x).disableLine l = (s.disableLine l).withExecution m x := by
  simp only [disableLine, withExecution_together, clearPairs_withExecution, changeLines_withExecution]

@[simp] theorem handOver_withExecution (p : PairIx) (side : Side) :
    (s.withExecution m x).handOver p side = (s.handOver p side).withExecution m x := by
  simp only [handOver_eq, withExecution_pair, withExecution_line, setPair_withExecution, setLine_withExecution] <;> rfl

/-! ### Records, lines and the Cutoff Unit -/

@[simp] theorem dropRecords_withExecution (p : ActionRecord → Bool) :
    (s.withExecution m x).dropRecords p = (s.dropRecords p).withExecution m x := by
  have hactions (v : Vector (Option ActionRecord) 32) :
      ({ s.withExecution m x with actions := v } : State) = ({ s with actions := v } : State).withExecution m x := rfl
  exact hactions _

@[simp] theorem rebase_withExecution (c v : Count) :
    (s.withExecution m x).rebase c v = (s.rebase c v).withExecution m x := by
  have hactions (v : Vector (Option ActionRecord) 32) :
      ({ s.withExecution m x with actions := v } : State) = ({ s with actions := v } : State).withExecution m x := rfl
  exact hactions _

@[simp] theorem cancelRecords_withExecution (p : ActionRecord → Bool) (reason : CancelReason) (t : Timestamp) :
    (s.withExecution m x).cancelRecords p reason t = (s.cancelRecords p reason t).withExecution m x := by
  have hnotify : (s.withExecution m x).notifyCancelled p reason t = (s.notifyCancelled p reason t).withExecution m x := by
    unfold notifyCancelled
    simp only [withExecution_action]
    refine s.foldl_withExecution m x _ fun u n => ?_
    cases s.action n with
    | none => rfl
    | some r =>
      dsimp only
      rw [hand_withExecution]
      split <;> rfl
  unfold cancelRecords
  rw [hnotify, dropRecords_withExecution]

@[simp] theorem complete_withExecution (n : Slot) (r : ActionRecord) (t : Timestamp) :
    (s.withExecution m x).complete n r t = (s.complete n r t).withExecution m x := by
  unfold complete
  dsimp only
  rw [hand_withExecution]
  cases r.counted.repeats <;> cases r.notify <;> simp

@[simp] theorem requestTarget_withExecution (r : ActionRecord) (q : LevelRequest) :
    (s.withExecution m x).requestTarget r q = (s.requestTarget r q).withExecution m x := by
  have hpair (p : PairIx) (want : Bool) :
      (s.withExecution m x).requestPair p want = (s.requestPair p want).withExecution m x := by
    simp only [requestPair, withExecution_pair, handOver_withExecution]
    split <;> rfl
  unfold requestTarget
  cases r.target with
  | capture _ => rfl
  | absent => rfl
  | output l =>
    simp only [requestLevel, withExecution_line, withExecution_pair, hpair, setLine_withExecution]
    split
    · split <;> rfl
    · rfl

@[simp] theorem cutoffChange_withExecution (st : CutState) (trip : Option Trip) (t : Timestamp) :
    (s.withExecution m x).cutoffChange st trip t = (s.cutoffChange st trip t).withExecution m x :=
  s.edgeEvent_withExecution m x _ _ _

@[simp] theorem sourceAsserts_withExecution (src : CutSource) (t : Timestamp) :
    (s.withExecution m x).sourceAsserts src t = (s.sourceAsserts src t).withExecution m x := by
  have htrip : (s.withExecution m x).trip src t = (s.trip src t).withExecution m x := by
    unfold trip
    simp only [withExecution_onCutLine, withExecution_countRecords, withExecution_cutoff, cutLines_withExecution,
      setCutoff_withExecution]
    refine inAnyOrder_withExecution _ _ _ fun f hf u => ?_
    rcases List.mem_append.mp hf with hf | hf
    · rw [List.mem_singleton.mp (mem_unless.mp hf).2]
      exact u.cancelRecords_withExecution m x _ _ _
    · rw [List.mem_singleton.mp hf]
      exact u.cutoffChange_withExecution m x _ _ _
  simp only [sourceAsserts, withExecution_cutoff, htrip, setCutoff_withExecution]
  split <;> rfl

@[simp] theorem rearmCheck_withExecution (t : Timestamp) :
    (s.withExecution m x).rearmCheck t = (s.rearmCheck t).withExecution m x := by
  simp only [rearmCheck, withExecution_mayRearm, withExecution_cutoff, setCutoff_withExecution, cutoffChange_withExecution]
  split <;> rfl

@[simp] theorem joinSource_withExecution (src : CutSource) (t : Timestamp) :
    (s.withExecution m x).joinSource src t = (s.joinSource src t).withExecution m x := by
  rw [joinSource, withExecution_cutoff, setCutoff_withExecution, sourceAsserts_withExecution]
  rfl

@[simp] theorem leaveSource_withExecution (src : CutSource) (t : Timestamp) :
    (s.withExecution m x).leaveSource src t = (s.leaveSource src t).withExecution m x := by
  rw [leaveSource, withExecution_cutoff, setCutoff_withExecution, rearmCheck_withExecution]
  rfl

@[simp] theorem momentary_withExecution (src : CutSource) (t : Timestamp) :
    (s.withExecution m x).momentary src t = (s.momentary src t).withExecution m x := by
  rw [momentary, sourceAsserts_withExecution, rearmCheck_withExecution]
  rfl

@[simp] theorem pinChanged_withExecution (before : Bool) (t : Timestamp) :
    (s.withExecution m x).pinChanged before t = (s.pinChanged before t).withExecution m x := by
  rw [pinChanged_eq, pinChanged_eq, joinSource_withExecution, leaveSource_withExecution, withExecution_cutoff]
  split
  · rfl
  · split <;> rfl

/-! ### What an announced count has left -/

theorem fire_withExecution (n : Slot) (r : ActionRecord) (t : Timestamp) :
    (s.withExecution m x).fire n r t = (s.fire n r t).withExecution m x := by
  have hopen : (s.withExecution m x).openTarget r = (s.openTarget r).withExecution m x := by
    unfold openTarget
    cases r.target <;> rfl
  unfold fire
  cases r.kind <;> simp only [requestTarget_withExecution, complete_withExecution, setAction_withExecution, hopen]

@[simp] theorem settle_withExecution : (s.withExecution m x).settle = s.settle.withExecution m x := by
  have hexpire (u : State) (p : PairIx) :
      (u.withExecution m x).expireDeadTime p = (u.expireDeadTime p).withExecution m x := by
    unfold expireDeadTime
    rw [withExecution_expiryDue, withExecution_pair, setPair_withExecution]
    split <;> rfl
  have hend (u : State) (n : Slot) : (u.withExecution m x).takeEnd n = (u.takeEnd n).withExecution m x := by
    simp only [takeEnd, endPulse, withExecution_nextEnd, withExecution_action, withExecution_timebase,
      requestTarget_withExecution, complete_withExecution]
    split
    · split <;> rfl
    · rfl
  have hfire (u : State) (n : Slot) : (u.withExecution m x).takeFire n = (u.takeFire n).withExecution m x := by
    simp only [takeFire, withExecution_nextFire, withExecution_action, withExecution_timebase, fire_withExecution]
    split
    · split <;> rfl
    · rfl
  have hall : (s.withExecution m x).takeAll = s.takeAll.withExecution m x := by
    unfold takeAll
    simp only [foldl_withExecution _ m x _ hexpire, foldl_withExecution _ m x _ hend, foldl_withExecution _ m x _ hfire]
  simp only [settle, withExecution_settled, hall]
  split <;> rfl

/-! ### What the commands do -/

@[simp] theorem attachChange_withExecution (k : Master) (a : Attachment) (t : Timestamp) :
    (s.withExecution m x).attachChange k a t = (s.attachChange k a t).withExecution m x :=
  s.edgeEvent_withExecution m x _ _ _

@[simp] theorem attachedReactions_withExecution (k : Master) (t : Timestamp) :
    (s.withExecution m x).attachedReactions k t = (s.attachedReactions k t).withExecution m x := by
  unfold attachedReactions
  rw [withExecution_heldFor]
  refine s.inAnyOrder_withExecution m x fun f hf u => ?_
  rcases List.mem_append.mp hf with hf | hf
  · obtain ⟨e, -, rfl⟩ := List.mem_map.mp hf
    exact u.attempt_withExecution m x e t
  · rw [List.mem_singleton.mp hf]
    exact u.attachChange_withExecution m x _ _ _

theorem detach_withExecution :
    ((s.withExecution m x).tearDown m).inAnyOrder (s.detachHandOffs m) =
      ((s.tearDown m).inAnyOrder (s.detachHandOffs m)).withExecution m x := by
  have htear : (s.withExecution m x).tearDown m = (s.tearDown m).withExecution m x := by
    simp only [tearDown, setAttachment_withExecution, withExecution_queue, setQueue_withExecution,
      dropRecords_withExecution, withExecution_wholePairs, withExecution_ownedLines, releaseLines_withExecution]
  rw [htear]
  refine inAnyOrder_withExecution _ _ _ fun f hf u => ?_
  rcases List.mem_append.mp hf with hf | hf
  · rcases List.mem_append.mp hf with hf | hf
    · obtain ⟨e, -, rfl⟩ := List.mem_map.mp hf
      exact u.leaveAwaiting_withExecution m x _ _ _
    · split at hf
      · rw [List.mem_singleton.mp hf]
        exact u.rearmCheck_withExecution m x _
      · cases hf
  · rw [List.mem_singleton.mp hf]
    exact u.attachChange_withExecution m x _ _ _

@[simp] theorem resync_withExecution : (s.withExecution m x).resync = s.resync.withExecution m x := by
  simp only [resync, withExecution_timebase, setTimebase_withExecution, rebase_withExecution, withExecution_now,
    edgeEvent_withExecution]

theorem eventHandOffs_withExecution {n : CapLine} {t : Timestamp} {ev : CaptureEvent} {f : State → State}
    (hf : f ∈ s.eventHandOffs n t ev) (u : State) : f (u.withExecution m x) = (f u).withExecution m x := by
  rcases List.mem_append.mp hf with hf | hf
  · rw [List.mem_singleton.mp hf]
    cases ev with
    | edge k => exact u.edgeEvent_withExecution m x _ _ _
    | assertion => exact u.assertion_withExecution m x _ _
    | deassertion => exact u.deassertion_withExecution m x _
  · split at hf
    · rw [List.mem_singleton.mp hf]
      cases ev with
      | edge k => exact u.momentary_withExecution m x _ _
      | assertion => exact u.joinSource_withExecution m x _ _
      | deassertion => exact u.leaveSource_withExecution m x _ _
    · cases hf

@[simp] theorem configureCapture_withExecution (n : CapLine) (c : CaptureSettings) :
    (s.withExecution m x).configureCapture n c = (s.configureCapture n c).withExecution m x := by
  have hgate {f : State → State} (hf : f ∈ s.gateHandOff n c) (u : State) :
      f (u.withExecution m x) = (f u).withExecution m x := by
    unfold gateHandOff at hf
    cases hr : c.gateReason with
    | none =>
      rw [hr] at hf
      cases hf
    | some reason =>
      rw [hr] at hf
      rw [List.mem_singleton.mp (mem_unless.mp hf).2]
      exact u.cancelRecords_withExecution m x _ _ _
  simp only [configureCapture, withExecution_capture, withExecution_now, withExecution_gateHandOff, withExecution_eventHandOffs,
    setCapture_withExecution]
  cases (s.capture n).configEvent ((s.capture n).configure c) with
  | none => exact inAnyOrder_withExecution _ _ _ fun f hf u => hgate hf u
  | some ev =>
    exact inAnyOrder_withExecution _ _ _ fun f hf u =>
      (List.mem_append.mp hf).elim (fun hf => hgate hf u) fun hf => s.eventHandOffs_withExecution m x hf u

@[simp] theorem writeEntry_withExecution (e : EntryIx) (c : EntrySettings) :
    (s.withExecution m x).writeEntry e c = (s.writeEntry e c).withExecution m x := by
  unfold writeEntry
  rw [withExecution_entry, setEntry_withExecution, withExecution_writeAttempt, withExecution_flagHandOff]
  refine inAnyOrder_withExecution _ _ _ fun f hf u => ?_
  rcases List.mem_append.mp hf with hf | hf
  · unfold writeAttempt at hf
    split at hf
    · rw [List.mem_singleton.mp hf]
      exact u.attempt_withExecution m x _ _
    · cases hf
  · unfold flagHandOff at hf
    split at hf
    · cases hf
    · split at hf
      · split at hf
        · rw [List.mem_singleton.mp hf]
          exact u.joinSource_withExecution m x _ _
        · rw [List.mem_singleton.mp hf]
          exact u.leaveSource_withExecution m x _ _
        · cases hf
        · cases hf
      · cases hf

@[simp] theorem changeMask_withExecution (e : EntryIx) (b : Bool) :
    (s.withExecution m x).changeMask e b = (s.changeMask e b).withExecution m x := by
  simp only [changeMask, withExecution_entry, withExecution_entryAsserted, withExecution_now, setEntry_withExecution,
    attempt_withExecution]
  split
  · split <;> rfl
  · rfl
  · rfl
  · rfl

@[simp] theorem complyDone_withExecution (k : Master) (tag : Byte) :
    (s.withExecution m x).complyDone k tag = (s.complyDone k tag).withExecution m x := by
  unfold complyDone
  rw [withExecution_affected]
  refine s.inAnyOrder_withExecution m x fun f hf u => ?_
  obtain ⟨e, -, rfl⟩ := List.mem_map.mp hf
  exact u.leaveAwaiting_withExecution m x _ _ _

@[simp] theorem enableLine_withExecution (l : OutLine) :
    (s.withExecution m x).enableLine l = (s.enableLine l).withExecution m x := by
  simp only [enableLine, withExecution_together, withExecution_complement, changeLines_withExecution, handOver_withExecution]
  split <;> rfl

@[simp] theorem restoreLines_withExecution (lines : LineSet) :
    (s.withExecution m x).restoreLines lines = (s.restoreLines lines).withExecution m x := by
  simp only [restoreLines, withExecution_wholePairs, changeLines_withExecution, withExecution_now, rearmCheck_withExecution]

@[simp] theorem writeRights_withExecution (c : RightsSettings) :
    (s.withExecution m x).writeRights c = (s.writeRights c).withExecution m x := by
  unfold writeRights
  dsimp only
  rw [withExecution_withdrawnLines, withExecution_withdrawnEntries, withExecution_countRecords, withExecution_anyCut,
    withExecution_now, setRight_withExecution, releaseLines_withExecution]
  refine inAnyOrder_withExecution _ _ _ fun f hf u => ?_
  rcases List.mem_append.mp hf with hf | hf
  · rw [List.mem_singleton.mp (mem_unless.mp hf).2]
    exact u.cancelRecords_withExecution m x _ _ _
  · split at hf
    · rw [List.mem_singleton.mp hf]
      exact u.rearmCheck_withExecution m x _
    · cases hf

@[simp] theorem withExecution_ownSlots (k : Master) : (s.withExecution m x).ownSlots k = s.ownSlots k := by
  have hafter (a b : Slot) : (s.withExecution m x).notAfter a b = s.notAfter a b := rfl
  have hinsert : (s.withExecution m x).insertSlot = s.insertSlot := by
    funext a l
    induction l with
    | nil => rfl
    | cons b l ih => rw [State.insertSlot, State.insertSlot, hafter, ih]
  unfold State.ownSlots
  rw [withExecution_selects, hinsert]

end

end State

/-! ### Every command's block -/

section

variable (m : Master) (x : Option Execution)

/-- What a block gives, with another execution at a port. -/
def withExecutionOf (r : State × Answer) : State × Answer := (r.1.withExecution m x, r.2)

@[simp] theorem withExecutionOf_mk (t : State) (a : Answer) : withExecutionOf m x (t, a) = (t.withExecution m x, a) := rfl


variable (s : State)

@[simp] theorem takeAttach_withExecution : takeAttach m (s.withExecution m x) = withExecutionOf m x (takeAttach m s) := by
  simp [takeAttach]

@[simp] theorem takeDetach_withExecution : takeDetach m (s.withExecution m x) = withExecutionOf m x (takeDetach m s) := by
  unfold takeDetach
  rw [State.withExecution_attachment, State.withExecution_detachHandOffs, State.detach_withExecution]
  split <;> rfl

@[simp] theorem takeSuspend_withExecution : takeSuspend m (s.withExecution m x) = withExecutionOf m x (takeSuspend m s) := by
  simp [takeSuspend]

@[simp] theorem takeResume_withExecution : takeResume m (s.withExecution m x) = withExecutionOf m x (takeResume m s) := by
  simp [takeResume]

@[simp] theorem takeSupvClaim_withExecution :
    takeSupvClaim m (s.withExecution m x) = withExecutionOf m x (takeSupvClaim m s) := by
  unfold takeSupvClaim
  rw [State.withExecution_supervisor]
  cases s.supervisor <;> rfl

@[simp] theorem takeRightsWrite_withExecution (f : RightsFields) :
    takeRightsWrite m f (s.withExecution m x) = withExecutionOf m x (takeRightsWrite m f s) := by
  unfold takeRightsWrite
  rw [State.withExecution_supervisor]
  cases rightsSettingsOf f with
  | none => split <;> rfl
  | some c =>
    dsimp only
    rw [State.withExecution_rightsRefusal, State.writeRights_withExecution]
    cases s.rightsRefusal c <;> split <;> rfl

@[simp] theorem takeRightsRead_withExecution (b : Byte) :
    takeRightsRead m b (s.withExecution m x) = withExecutionOf m x (takeRightsRead m b s) := by
  unfold takeRightsRead
  rw [State.withExecution_supervisor]
  cases indexOf 4 b with
  | none => rfl
  | some n =>
    dsimp only
    split <;> rfl

@[simp] theorem takeLabelWrite_withExecution (l : Vector Byte 16) :
    takeLabelWrite m l (s.withExecution m x) = withExecutionOf m x (takeLabelWrite m l s) := by
  unfold takeLabelWrite
  rw [State.withExecution_supervisor, State.withExecution_label]
  split
  · rfl
  · split <;> rfl

@[simp] theorem takeTbConfig_withExecution (f : TbFields) :
    takeTbConfig m f (s.withExecution m x) = withExecutionOf m x (takeTbConfig m f s) := by
  unfold takeTbConfig
  rw [State.withExecution_right, State.withExecution_timebase]
  cases timebaseSettingsOf f with
  | none => split <;> rfl
  | some c =>
    dsimp only
    split
    · rfl
    · split <;> rfl

@[simp] theorem takeTbRun_withExecution : takeTbRun m (s.withExecution m x) = withExecutionOf m x (takeTbRun m s) := by
  unfold takeTbRun
  rw [State.withExecution_right]
  split <;> rfl

@[simp] theorem takeTbHold_withExecution : takeTbHold m (s.withExecution m x) = withExecutionOf m x (takeTbHold m s) := by
  unfold takeTbHold
  rw [State.withExecution_right, State.settle_withExecution]
  split <;> rfl

@[simp] theorem takeTbResync_withExecution :
    takeTbResync m (s.withExecution m x) = withExecutionOf m x (takeTbResync m s) := by
  unfold takeTbResync
  rw [State.withExecution_right, State.resync_withExecution]
  split <;> rfl

@[simp] theorem takeCapConfig_withExecution (f : CapFields) :
    takeCapConfig m f (s.withExecution m x) = withExecutionOf m x (takeCapConfig m f s) := by
  unfold takeCapConfig
  cases indexOf 16 f.line with
  | none => rfl
  | some n =>
    dsimp only
    rw [State.withExecution_programs, State.withExecution_entry]
    cases captureSettingsOf f with
    | none => split <;> rfl
    | some c =>
      dsimp only
      rw [State.configureCapture_withExecution]
      split
      · rfl
      · split <;> rfl

@[simp] theorem takeCapGate_withExecution (b : Byte) :
    takeCapGate m b (s.withExecution m x) = withExecutionOf m x (takeCapGate m b s) := by
  unfold takeCapGate
  cases indexOf 16 b with
  | none => rfl
  | some n =>
    dsimp only
    rw [State.withExecution_programs]
    split <;> rfl

@[simp] theorem takeCapRead_withExecution (b : Byte) :
    takeCapRead b (s.withExecution m x) = withExecutionOf m x (takeCapRead b s) := by
  unfold takeCapRead
  cases indexOf 16 b <;> rfl

@[simp] theorem takeGroupConfig_withExecution (b : Byte) (mask : BitVec 16) :
    takeGroupConfig m b mask (s.withExecution m x) = withExecutionOf m x (takeGroupConfig m b mask s) := by
  unfold takeGroupConfig
  cases indexOf 4 b with
  | none => rfl
  | some g =>
    dsimp only
    rw [State.withExecution_programs]
    split <;> rfl

@[simp] theorem takeEntryWrite_withExecution (f : EntryFields) :
    takeEntryWrite m f (s.withExecution m x) = withExecutionOf m x (takeEntryWrite m f s) := by
  unfold takeEntryWrite
  cases indexOf 24 f.entry with
  | none => rfl
  | some e =>
    dsimp only
    rw [State.withExecution_programs, State.withExecution_entry]
    cases entrySettingsOf f with
    | none => split <;> rfl
    | some c =>
      dsimp only
      rw [State.writeEntry_withExecution, State.withExecution_entryBytes]
      split
      · rfl
      · split
        · rfl
        · split <;> rfl

@[simp] theorem takeEntryMask_withExecution (b mask : Byte) :
    takeEntryMask m b mask (s.withExecution m x) = withExecutionOf m x (takeEntryMask m b mask s) := by
  unfold takeEntryMask
  cases indexOf 24 b with
  | none => rfl
  | some e =>
    cases switchOf mask with
    | none => rfl
    | some y =>
      dsimp only
      rw [State.withExecution_programs, State.changeMask_withExecution]
      split <;> rfl

@[simp] theorem takeEntryRead_withExecution (b : Byte) :
    takeEntryRead m b (s.withExecution m x) = withExecutionOf m x (takeEntryRead m b s) := by
  unfold takeEntryRead
  cases indexOf 24 b with
  | none => rfl
  | some e =>
    dsimp only
    rw [State.withExecution_programs]
    split <;> rfl

@[simp] theorem takeDone_withExecution (tag : Byte) :
    takeDone m tag (s.withExecution m x) = withExecutionOf m x (takeDone m tag s) := by
  simp [takeDone]

@[simp] theorem takeFetch_withExecution : takeFetch m (s.withExecution m x) = withExecutionOf m x (takeFetch m s) := by
  unfold takeFetch
  rw [State.withExecution_queue]
  cases (s.queue m).notices <;> rfl

@[simp] theorem takeAttnEnable_withExecution (b : Byte) :
    takeAttnEnable m b (s.withExecution m x) = withExecutionOf m x (takeAttnEnable m b s) := by
  unfold takeAttnEnable
  cases switchOf b <;> rfl

@[simp] theorem takeActSubmit_withExecution (f : SubmitFields) :
    takeActSubmit m f (s.withExecution m x) = withExecutionOf m x (takeActSubmit m f s) := by
  have hplace (r : ActionRecord) :
      (s.withExecution m x).placeRecord r = withExecutionOf m x (s.placeRecord r) := by
    unfold State.placeRecord
    rw [State.withExecution_right, State.withExecution_held, State.withExecution_freeSlot]
    cases s.freeSlot <;> split <;> rfl
  unfold takeActSubmit
  cases submitFormOf f with
  | none => rfl
  | some y =>
    dsimp only
    rw [State.withExecution_targetRefusal, State.withExecution_timebase]
    cases s.targetRefusal m y.target with
    | some _ => rfl
    | none =>
      cases s.timebase.dueTime y.reference f.time with
      | inl _ => rfl
      | inr due =>
        dsimp only
        rw [hplace]
        split <;> rfl

@[simp] theorem takeActModify_withExecution (f : ModifyFields) :
    takeActModify m f (s.withExecution m x) = withExecutionOf m x (takeActModify m f s) := by
  unfold takeActModify
  rw [State.withExecution_ownRecord]
  match s.ownRecord m f.slot with
  | .inl _ => rfl
  | .inr (n, r) =>
    dsimp only
    split
    · rfl
    · split <;> rfl

@[simp] theorem takeActCancel_withExecution (b : Byte) :
    takeActCancel m b (s.withExecution m x) = withExecutionOf m x (takeActCancel m b s) := by
  unfold takeActCancel
  rw [State.withExecution_ownRecord]
  match s.ownRecord m b with
  | .inl _ => rfl
  | .inr (n, r) =>
    dsimp only [State.cancelAction]
    rw [State.requestTarget_withExecution]
    cases r.isActive <;> rfl

@[simp] theorem takeActRead_withExecution (b : Byte) :
    takeActRead m b (s.withExecution m x) = withExecutionOf m x (takeActRead m b s) := by
  unfold takeActRead
  rw [State.settle_withExecution]
  dsimp only
  rw [State.withExecution_ownRecord]
  match s.settle.ownRecord m b with
  | .inl _ => rfl
  | .inr (n, r) => rfl

@[simp] theorem takeActList_withExecution : takeActList m (s.withExecution m x) = withExecutionOf m x (takeActList m s) := by
  simp [takeActList]

@[simp] theorem takeLineClaim_withExecution (b : Byte) :
    takeLineClaim m b (s.withExecution m x) = withExecutionOf m x (takeLineClaim m b s) := by
  unfold takeLineClaim
  rw [State.withExecution_addressedLine]
  cases s.addressedLine b with
  | none => rfl
  | some l =>
    dsimp only
    rw [State.withExecution_mayClaim, State.withExecution_line]
    split
    · rfl
    · split <;> rfl

@[simp] theorem takeLineRelease_withExecution (b : Byte) :
    takeLineRelease m b (s.withExecution m x) = withExecutionOf m x (takeLineRelease m b s) := by
  unfold takeLineRelease
  rw [State.withExecution_addressedLine]
  cases s.addressedLine b with
  | none => rfl
  | some l =>
    dsimp only
    rw [State.withExecution_line]
    split
    · rfl
    · split <;> rfl

@[simp] theorem takeLineConfig_withExecution (f : LineFields) :
    takeLineConfig m f (s.withExecution m x) = withExecutionOf m x (takeLineConfig m f s) := by
  unfold takeLineConfig
  cases indexOf 8 f.line with
  | none => rfl
  | some l =>
    cases lineSettingsOf f with
    | none => rfl
    | some c =>
      dsimp only
      rw [State.withExecution_line, State.withExecution_complementB, State.withExecution_pairCutEnable,
        State.configureLine_withExecution]
      split
      · rfl
      · split
        · rfl
        · split <;> rfl

@[simp] theorem takeLineEnable_withExecution (b : Byte) :
    takeLineEnable m b (s.withExecution m x) = withExecutionOf m x (takeLineEnable m b s) := by
  unfold takeLineEnable
  rw [State.withExecution_addressedLine]
  cases s.addressedLine b with
  | none => rfl
  | some l =>
    dsimp only
    rw [State.withExecution_line, State.withExecution_cutoff, State.enableLine_withExecution]
    split
    · rfl
    · cases (s.line l).drive with
      | disabled =>
        dsimp only
        split <;> rfl
      | _ => rfl

@[simp] theorem takeLineDisable_withExecution (b : Byte) :
    takeLineDisable m b (s.withExecution m x) = withExecutionOf m x (takeLineDisable m b s) := by
  unfold takeLineDisable
  rw [State.withExecution_addressedLine]
  cases s.addressedLine b with
  | none => rfl
  | some l =>
    dsimp only
    rw [State.withExecution_line, State.withExecution_lineInUse, State.disableLine_withExecution]
    split
    · rfl
    · cases (s.line l).drive with
      | driven =>
        dsimp only
        split <;> rfl
      | _ => rfl

@[simp] theorem takeLineRead_withExecution (b : Byte) :
    takeLineRead b (s.withExecution m x) = withExecutionOf m x (takeLineRead b s) := by
  unfold takeLineRead
  cases indexOf 8 b <;> rfl

@[simp] theorem takePairConfig_withExecution (f : PairFields) :
    takePairConfig m f (s.withExecution m x) = withExecutionOf m x (takePairConfig m f s) := by
  unfold takePairConfig
  cases indexOf 4 f.pair with
  | none => rfl
  | some p =>
    cases pairModeOf f.mode with
    | none => rfl
    | some mode =>
      cases deadTimeOf f.deadTime with
      | none => rfl
      | some d =>
        dsimp only
        rw [State.withExecution_pairRefusal]
        cases s.pairRefusal m p mode <;> rfl

@[simp] theorem takeCutForce_withExecution : takeCutForce m (s.withExecution m x) = withExecutionOf m x (takeCutForce m s) := by
  unfold takeCutForce
  rw [State.withExecution_ownedLines, State.withExecution_supervisor, State.withExecution_now, State.momentary_withExecution]
  split <;> rfl

@[simp] theorem takeCutRestore_withExecution (lines : BitVec 8) :
    takeCutRestore m lines (s.withExecution m x) = withExecutionOf m x (takeCutRestore m lines s) := by
  unfold takeCutRestore
  rw [State.withExecution_restoreRefusal, State.restoreLines_withExecution]
  cases s.restoreRefusal m lines <;> rfl

@[simp] theorem takeCutConfig_withExecution (f : CutFields) :
    takeCutConfig m f (s.withExecution m x) = withExecutionOf m x (takeCutConfig m f s) := by
  unfold takeCutConfig
  rw [State.withExecution_mayConfigurePin]
  cases pinSettingsOf f with
  | none => split <;> rfl
  | some c =>
    dsimp only
    rw [State.withExecution_cutoff, State.withExecution_now, State.setCutoff_withExecution, State.pinChanged_withExecution]
    split <;> rfl

/-- No block's work depends on what the requesting port is executing, and none changes it. -/
theorem blockOf_withExecution {i : Instr} {m : Master} (hi : i.requester = some m) (x : Option Execution) (s : State) :
    blockOf i (s.withExecution m x) = withExecutionOf m x (blockOf i s) := by
  cases i
  case status | identify | tbRead | cutRead => cases hi; simp [blockOf, takeStatus, takeIdentify, takeTbRead, takeCutRead]
  case deviceReset | resetRelease | requestFrame | responseRead | responsePlacement | syncEdge | tick | servicePeriod
      | deadlineExpiry | captureQualification | cutoffPinQualification | actionFiring | pulseEnd | deadTimeExpiry
      | captureSample | cutoffPinSample | syncSample | requestFirstByte => rfl
  all_goals cases hi; simp [blockOf]

end

/-! ### The frame and its execution (R159, R162) -/

theorem State.withExecution_answer (s : State) (m : Master) (x : Option Execution) (code : Byte) (a : Answer) :
    (s.withExecution m x).answer m code a = s.answer m code a := by
  simp [State.answer, State.withExecution]

/-- A valid frame at a free port: the port accepts it and the command is taken. -/
theorem exec_requestFrame_taken {i : Instr} {m : Master} {code : Byte} {payload : List Byte} {s : State}
    (he : encodeRequest i = some (m, code, payload)) (hr : s.resetHeld = false) (hstale : (s.port m).stale = false)
    (hfree : (s.port m).state ≠ .executing) (ha : admission i (s.attachment m) = none) :
    exec (.requestFrame m (requestFrameBytes code payload)) s =
      .next ((s.setPort m (s.port m).accept).withExecution m (some (.taken i))) := by
  obtain ⟨-, hlength⟩ := commandOf_encode he
  obtain ⟨hmax, hcode⟩ := commandLength_bounds hlength
  have hread : code ≠ Config.readByte := hcode
  have hvalid : frameProblem (requestFrameBytes code payload) = none :=
    (frameProblem_none_iff_laidOut _).mpr ⟨code, payload, hmax, rfl⟩
  have hgate : gate m (s.attachment m) code payload = .inr i := by rw [gate_of_decoded _ (decodeRequest_encode he), ha]
  have hframe : s.frameEnds m code (requestFrameBytes code payload) =
      s.setPort m { (s.port m).accept with execution := some (.taken i) } := by
    unfold State.frameEnds
    rw [if_neg hfree, hvalid]
    dsimp only
    rw [framePayload_requestFrameBytes code hmax, State.takeFrame_port, hgate]
  have hstep : exec (.requestFrame m (requestFrameBytes code payload)) s =
      .next (s.periodEnds m fun t => t.frameEnds m code (requestFrameBytes code payload)) := by
    have hfirst : requestFrameBytes code payload = code :: (requestFrameBytes code payload).tail := rfl
    rw [hfirst]
    simp only [exec, execRequestFrame, if_neg hread]
  rw [hstep, State.periodEnds_heeded hr hstale, hframe]
  simp [State.withExecution, Port.accept, Port.deselected]

end Sys2Proof.Machine

open Sys2Proof Sys2Proof.Machine

/-- Settles O60: the frame leaves the command taken at an accepted port, and the command's block does not see the difference. -/
theorem requestFrameThenExecutionIsTheCommand : Obligations.RequestFrameThenExecutionIsTheCommand := by
  unfold Obligations.RequestFrameThenExecutionIsTheCommand
  intro i m code payload s he hr hstale hnone hfree ha
  have hi : i.requester = some m := by simp [Instr.requester, he]
  refine ⟨_, exec_requestFrame_taken he hr hstale hfree ha, by simp [State.withExecution], ?_⟩
  have hdirect : s.carriesOut m i = true := by simp [State.carriesOut, hr, hnone, ha]
  have htaken : ((s.setPort m (s.port m).accept).withExecution m (some (.taken i))).carriesOut m i = true := by
    simp [State.carriesOut, State.withExecution, hr]
  have hfront : s.front m = s.setPort m (s.port m).accept := by simp [State.front, hnone, Port.place]
  have hfront' : ((s.setPort m (s.port m).accept).withExecution m (some (.taken i))).front m =
      (s.setPort m (s.port m).accept).withExecution m (some (.taken i)) := by simp [State.front, State.withExecution]
  rw [exec_carriesOut hi htaken, exec_carriesOut hi hdirect, hfront, hfront', blockOf_withExecution hi]
  exact congrArg _ (State.withExecution_answer _ _ _ _ _)

end
